-- ==== Sys2Proof/Word.lean ====
section
/-! DEFINITION. The word types of the block (00_scope.md R9): a byte, and addresses of 20 and 16 bits. Every
value is unsigned; bit 0 is the least significant bit (R8). -/

namespace Sys2Proof

/-- A byte: every data value the block moves (R9). -/
abbrev Byte := BitVec 8

/-- A port address as the CPU issues it, format `PORT16` (30_encoding.md R92). -/
abbrev PortAddr := BitVec 16

/-- A 16-bit program (virtual) address (10_state.md R35). -/
abbrev VirtAddr := BitVec 16

/-- A 20-bit physical address, format `PA20` (30_encoding.md R91). -/
abbrev PhysAddr := BitVec 20

end Sys2Proof
end

