-- ==== Sys2Proof/Config.lean ====
section
/-! DEFINITION. The parameters of 00_scope.md R6, the values the model names where the spec leaves a reset value
OPEN, and the free values: opaque constants with no body, of which nothing can be proved. -/

namespace Sys2Proof

/-- One call to an external collaborator, or one event emitted to one (00_scope.md R4, R10). -/
inductive ExtCall where
  /-- `ext.Translate(va)`, R68. -/
  | translate (va : VirtAddr)
  /-- `ext.Claims(addr)`, R150. -/
  | claims (addr : PortAddr)
  /-- `ext.CtlRead(addr)`, R153. -/
  | ctlRead (addr : PortAddr)
  /-- `ext.CtlWrite(addr, v)`, R154. -/
  | ctlWrite (addr : PortAddr) (v : Byte)
  /-- `ext.IdeRead(sub)`, R156. -/
  | ideRead (sub : BitVec 3)
  /-- `ext.IdeWrite(sub, v)`, R157. -/
  | ideWrite (sub : BitVec 3) (v : Byte)
  /-- `ext.FdcRead(sub)`, R159. -/
  | fdcRead (sub : BitVec 3)
  /-- `ext.FdcWrite(sub, v)`, R160. -/
  | fdcWrite (sub : BitVec 3) (v : Byte)
  /-- `ext.SpiXfer(b)`, R261. -/
  | spiXfer (b : Byte)
  /-- `ext.Poll()`, R239. -/
  | poll
  /-- The event `CsLower`, R202. -/
  | csLower
  /-- The event `CsRaise`, R202. -/
  | csRaise
deriving DecidableEq, Repr

/-- The nine trace gates that the source names; their bit positions in `S.trace` are not in the source
(10_state.md R24, N9). -/
inductive TraceGate where
  | memoryAccess | portAccess | unknownPort | cpuInstruction | cpuIoController
  | interrupt | floppy | spi | blockDevice
deriving DecidableEq, Repr

/-- `DET_ON_NONFETCH` (R6, D12): what a non-fetch read does to the detector. -/
inductive NonfetchPolicy where
  | idle | keep
deriving DecidableEq, Repr

/-! ## Values the spec gives (R6) -/

/-- `OPEN_BUS`, also the PPI input placeholder and the unmapped-port read value. -/
def Config.openBus : Byte := 0xFF
/-- `BCR_ROM_BIT`. -/
def Config.bcrRomBit : Nat := 3
/-- `BCR_EXT_BIT`. -/
def Config.bcrExtBit : Nat := 2
/-- `DIR_A_BIT` (PRESUMED by the spec, D4; log entry 11). -/
def Config.dirABit : Nat := 4
/-- `DIR_CU_BIT` (PRESUMED by the spec, D4; log entry 11). -/
def Config.dirCUBit : Nat := 3
/-- `DIR_B_BIT` (PRESUMED by the spec, D4; log entry 11). -/
def Config.dirBBit : Nat := 1
/-- `DIR_CL_BIT` (PRESUMED by the spec, D4; log entry 11). -/
def Config.dirCLBit : Nat := 0
/-- `PFX_EXT`, read off the state name `SawPrefixED` (D11). -/
def Config.pfxExt : Byte := 0xED
/-- `OPC_RETI` (PRESUMED by the spec, D11; log entry 11). -/
def Config.opcReti : Byte := 0x4D
/-- `PFX_IX` (PRESUMED by the spec, D11; log entry 11). -/
def Config.pfxIx : Byte := 0xDD
/-- `PFX_IY` (PRESUMED by the spec, D11; log entry 11). -/
def Config.pfxIy : Byte := 0xFD
/-- `PFX_BIT` (PRESUMED by the spec, D11; log entry 11). -/
def Config.pfxBit : Byte := 0xCB
/-- `DET_ON_NONFETCH`: the spec's default (D12). -/
def Config.detOnNonfetch : NonfetchPolicy := .idle

/-! ## Reset values the spec leaves OPEN (D16): DESIGN CHOICE, log entry 8, unsafe -/

/-- `PA_RESET`: the recommended instance of R304, bit 3 set, bit 2 clear; the other bits zero. -/
def Config.portAReset : Byte := 0x08
/-- `PB_RESET`. -/
def Config.portBReset : Byte := 0x00
/-- `PC_RESET`. -/
def Config.portCReset : Byte := 0x00
/-- `CTRL_RESET`. -/
def Config.ctrlReset : Byte := 0x00
/-- `TRACE_INIT`. -/
def Config.traceInit : BitVec 16 := 0x0000
/-- `LED_RESET`. -/
def Config.ledReset : Byte := 0x00

/-! ## Free values -/

/-- `RAM_INIT`: the arbitrary byte that a RAM index holds until it is written (R33, D17; log entry 6). -/
opaque Config.ramInit : Nat → Byte
/-- `ROM_IMAGE`: the byte of the image at an index (R34, R6 OPEN; log entry 7). -/
opaque Config.romImage : Nat → Byte
/-- `IDE_CONFIGURED` of the run (R6 OPEN, D24; log entry 10). -/
opaque Config.ideConfigured : Bool
/-- `SPI_ATTACHED` of the run (R6 OPEN, D24; log entry 10). -/
opaque Config.spiAttached : Bool
/-- `DMA_ACTIVE` of the run (R6 OPEN, D23; log entry 17). -/
opaque Config.dmaActive : Bool
/-- Whether a trace level opens a gate: the bit positions are not in the source (R24, N9; log entry 16). -/
opaque Config.traceGate : TraceGate → BitVec 16 → Bool
/-- The answer of `ext.Translate`, of any width (R11, R68, D30), after a history of calls (log entry 4). -/
opaque Config.translate : List ExtCall → VirtAddr → Nat
/-- The answer of `ext.Claims` (R11; log entry 4). -/
opaque Config.claims : List ExtCall → PortAddr → Bool
/-- The answer of `ext.CtlRead` (R11; log entry 4). -/
opaque Config.ctlRead : List ExtCall → PortAddr → Byte
/-- Whether the controller calls `RecalcRequest` inside `ext.CtlWrite` (R154, R240; log entry 5). -/
opaque Config.ctlWriteRequests : List ExtCall → PortAddr → Byte → Bool
/-- The answer of `ext.IdeRead` (R11; log entry 4). -/
opaque Config.ideRead : List ExtCall → BitVec 3 → Byte
/-- The answer of `ext.FdcRead` (R11; log entry 4). -/
opaque Config.fdcRead : List ExtCall → BitVec 3 → Byte
/-- Whether the floppy controller calls `RecalcRequest` inside `ext.FdcWrite` (R240; log entry 5). -/
opaque Config.fdcWriteRequests : List ExtCall → BitVec 3 → Byte → Bool
/-- The answer of `ext.SpiXfer` (R11; log entry 4). -/
opaque Config.spiXfer : List ExtCall → Byte → Byte
/-- The answer of `ext.Poll`: did the controller raise an interrupt (R239, D14; log entry 4). -/
opaque Config.poll : List ExtCall → Bool

end Sys2Proof
end

