-- ==== Sys2Proof/Syntax.lean ====
section
/-! DEFINITION. The operations of the block, one constructor for each row of spec/opcode_table.json, and the encoded
form in which an agent presents one (30_encoding.md R90). -/

namespace Sys2Proof

/-- The direction of a port or memory operation. -/
inductive Dir where
  | read | write
deriving DecidableEq, Repr

/-- The detector's state `S.det` (10_state.md R29). -/
inductive Det where
  | idle | sawPrefixED
deriving DecidableEq, Repr

/-- One byte that `Reset` loads: byte `i` of `ROM_IMAGE` (19-bit index) or of `RAM_INIT` (20-bit index), R300. -/
inductive ImageByte where
  | rom (i : BitVec 19) (v : Byte)
  | ram (i : BitVec 20) (v : Byte)
deriving DecidableEq, Repr

/-- The parameters of `Reset` (70_reset_and_hazards.md R300). `image` lists bytes of `ROM_IMAGE` and `RAM_INIT` that are
fixed, in loading order; every byte not listed stays the free value of Config (log entries 6 and 7). -/
structure ResetParams where
  trace : BitVec 16
  portA : Byte
  portB : Byte
  portC : Byte
  ctrl  : Byte
  led   : Byte
  image : List ImageByte
deriving DecidableEq, Repr

/-- The block's operations: one constructor for each row of the opcode table. `x` is the don't-care bit 2 of a PPI
port address (30_encoding.md R93, R94). -/
inductive Instr where
  /-- IN.CLAIMED, R153. -/
  | inClaimed (addr : PortAddr)
  /-- OUT.CLAIMED, R154. -/
  | outClaimed (addr : PortAddr) (v : Byte)
  /-- IN.IDE, R156. -/
  | inIde (sub : BitVec 3)
  /-- OUT.IDE, R157. -/
  | outIde (sub : BitVec 3) (v : Byte)
  /-- IN.FDC, R159. -/
  | inFdc (sub : BitVec 3)
  /-- OUT.FDC, R160. -/
  | outFdc (sub : BitVec 3) (v : Byte)
  /-- IN.PPI_A, R190. -/
  | inPpiA (x : BitVec 1)
  /-- IN.PPI_B, R191. -/
  | inPpiB (x : BitVec 1)
  /-- IN.PPI_C, R192. -/
  | inPpiC (x : BitVec 1)
  /-- IN.PPI_CTRL, R193. -/
  | inPpiCtrl (x : BitVec 1)
  /-- OUT.PPI_A, R195. -/
  | outPpiA (x : BitVec 1) (v : Byte)
  /-- OUT.PPI_B, R196. -/
  | outPpiB (x : BitVec 1) (v : Byte)
  /-- OUT.PPI_C, R197. -/
  | outPpiC (x : BitVec 1) (v : Byte)
  /-- OUT.PPI_CTRL, R198. -/
  | outPpiCtrl (x : BitVec 1) (v : Byte)
  /-- IN.LED, R165. -/
  | inLed
  /-- OUT.LED, R166. -/
  | outLed (v : Byte)
  /-- IN.TRACE_LO, R167. -/
  | inTraceLo
  /-- OUT.TRACE_LO, R168. -/
  | outTraceLo (v : Byte)
  /-- IN.TRACE_HI, R169. -/
  | inTraceHi
  /-- OUT.TRACE_HI, R170. -/
  | outTraceHi (v : Byte)
  /-- IN.UNMAPPED, R171. -/
  | inUnmapped (p : Byte)
  /-- OUT.UNMAPPED, R172. -/
  | outUnmapped (p : Byte) (v : Byte)
  /-- MODESET, R199: `v` is the whole byte, bit 7 set. -/
  | modeset (v : Byte)
  /-- BSR, R200: `ign` is bits 6:4, `n` bits 3:1, `b` bit 0. -/
  | bsr (ign : BitVec 3) (n : BitVec 3) (b : Bool)
  /-- PFX_DD, R231. -/
  | pfxDd
  /-- PFX_FD, R231. -/
  | pfxFd
  /-- PFX_CB, R231. -/
  | pfxCb
  /-- PFX_ED, R232. -/
  | pfxEd
  /-- OPC_RETI, R234. -/
  | opcReti
  /-- OTHER.IDLE, R233. -/
  | otherIdle (b : Byte)
  /-- OTHER.SAWED, R235. -/
  | otherSawed (b : Byte)
  /-- MEMR.BASE, R131: `off` is bits 18:0. -/
  | memrBase (off : BitVec 19)
  /-- MEMR.EXT, R132. -/
  | memrExt (off : BitVec 19)
  /-- MEMW.BASE, R134. -/
  | memwBase (off : BitVec 19) (v : Byte)
  /-- MEMW.EXT, R135. -/
  | memwExt (off : BitVec 19) (v : Byte)
  /-- PHYS_READ, R130: an address of any width. -/
  | physRead (a : Nat)
  /-- PHYS_WRITE, R133. -/
  | physWrite (a : Nat) (v : Byte)
  /-- VIRT_READ, R136. -/
  | virtRead (va : VirtAddr) (quiet : Bool)
  /-- VIRT_WRITE, R137. -/
  | virtWrite (va : VirtAddr) (v : Byte)
  /-- CPU_MEM_READ, R138. -/
  | cpuMemRead (va : VirtAddr) (m1 : Bool)
  /-- CPU_MEM_WRITE, R139. -/
  | cpuMemWrite (va : VirtAddr) (v : Byte)
  /-- PORT_READ, R150. -/
  | portRead (addr : PortAddr)
  /-- PORT_WRITE, R151. -/
  | portWrite (addr : PortAddr) (v : Byte)
  /-- CS_RECALC, R202. -/
  | csRecalc
  /-- FETCH_OBSERVE, R230. -/
  | fetchObserve (b : Byte)
  /-- NONFETCH, R237. -/
  | nonfetch
  /-- RETI_EVENT, R238. -/
  | retiEvent
  /-- REPOLL, R239. -/
  | repoll
  /-- RECALC_REQ, R240. -/
  | recalcReq
  /-- RECALC_SVC, R241. -/
  | recalcSvc (iff1 iff2 : Bool)
  /-- REV8, R260. -/
  | rev8 (b : Byte)
  /-- SPI_EXCHANGE, R261. -/
  | spiExchange (b : Byte)
  /-- RESET, R300. -/
  | reset (p : ResetParams)
deriving DecidableEq, Repr

/-- The names of the EVENT rows: operations invoked by name, with no bit pattern of their own. -/
inductive EventName where
  | physRead | physWrite | virtRead | virtWrite | cpuMemRead | cpuMemWrite | portRead | portWrite
  | csRecalc | fetchObserve | nonfetch | retiEvent | repoll | recalcReq | recalcSvc | rev8 | spiExchange | reset
deriving DecidableEq, Repr

/-- Which format a request's bits have: decided by the kind of operation, never by the bits themselves
(30_encoding.md R90). -/
inductive Format where
  | port16 (d : Dir) | port8 (d : Dir) | ppicw | fetch8 | pa20 (d : Dir) | event (e : EventName)
deriving DecidableEq, Repr

/-- An operation as an agent presents it: the kind of operation, and its bits and operands as bytes (DESIGN CHOICE,
log entry 2). -/
structure Request where
  fmt   : Format
  bytes : List Byte
deriving DecidableEq, Repr

/-- The agents that ask the block for operations (00_scope.md R7), and the DMA engine (R76, D23). Which of them asks for an
operation the operation itself says (`askedBy`; log entry 18). -/
inductive Agent where
  | cpu | dma | peripheral | scheduler | tool | host
deriving DecidableEq, Repr

/-- A request as an agent makes it, with what only that agent knows of it (log entry 18). -/
structure Asked where
  request : Request
  /-- For an operation of the CPU, whether it is the last of its CPU instruction; read for no other. -/
  ends : Bool
  /-- For a physical access, whether the DMA engine makes it (R76, D23); read for no other operation. -/
  dma : Bool
deriving DecidableEq, Repr

/-- What the rows' `condition` column reads besides the bits: `IDE_CONFIGURED`, `S.det`, and whether the process has
already performed an operation (R93, R98, R302). -/
structure DecodeCtx where
  ideConfigured : Bool
  det           : Det
  started       : Bool
deriving DecidableEq, Repr

end Sys2Proof
end

