-- ==== Sys2Proof/WellFormed.lean ====
section
/-! DEFINITION. When an operation is one that its opcode-table row describes: the row's bits and its `condition` on
`IDE_CONFIGURED`, on `S.det` and on the start of the process. -/

namespace Sys2Proof

/-- The ports of the map that an unclaimed 8-bit port address can match, apart from the IDE window (R62, R93). -/
def mappedPort (p : Byte) : Bool :=
  (0x70 ≤ p.toNat && p.toNat ≤ 0x7F) || p.toNat == 0x0D || p.toNat == 0xFD || p.toNat == 0xFE

/-- The IDE window (R62, R93). -/
def idePort (p : Byte) : Bool := 0x10 ≤ p.toNat && p.toNat ≤ 0x17

/-- A port of the UNMAPPED row: every value outside the mapped ranges, and the IDE window when no IDE device is
configured (R62, R158). -/
def unmappedPort (ide : Bool) (p : Byte) : Bool := !(mappedPort p || (ide && idePort p))

/-- The check of one operation in a context. -/
def Instr.wellFormed (c : DecodeCtx) : Instr → Bool
  | .inClaimed _ => true
  | .outClaimed _ _ => true
  | .inIde _ => c.ideConfigured
  | .outIde _ _ => c.ideConfigured
  | .inFdc _ => true
  | .outFdc _ _ => true
  | .inPpiA _ => true
  | .inPpiB _ => true
  | .inPpiC _ => true
  | .inPpiCtrl _ => true
  | .outPpiA _ _ => true
  | .outPpiB _ _ => true
  | .outPpiC _ _ => true
  | .outPpiCtrl _ _ => true
  | .inLed => true
  | .outLed _ => true
  | .inTraceLo => true
  | .outTraceLo _ => true
  | .inTraceHi => true
  | .outTraceHi _ => true
  | .inUnmapped p => unmappedPort c.ideConfigured p
  | .outUnmapped p _ => unmappedPort c.ideConfigured p
  | .modeset v => v.getLsbD 7
  | .bsr _ _ _ => true
  | .pfxDd => c.det == .idle
  | .pfxFd => c.det == .idle
  | .pfxCb => c.det == .idle
  | .pfxEd => c.det == .idle
  | .opcReti => c.det == .sawPrefixED
  | .otherIdle b => c.det == .idle && b != 0xDD && b != 0xFD && b != 0xCB && b != 0xED
  | .otherSawed b => c.det == .sawPrefixED && b != 0x4D
  | .memrBase _ => true
  | .memrExt _ => true
  | .memwBase _ _ => true
  | .memwExt _ _ => true
  | .physRead a => decide (a < 2 ^ 32)
  | .physWrite a _ => decide (a < 2 ^ 32)
  | .virtRead _ _ => true
  | .virtWrite _ _ => true
  | .cpuMemRead _ _ => true
  | .cpuMemWrite _ _ => true
  | .portRead _ => true
  | .portWrite _ _ => true
  | .csRecalc => true
  | .fetchObserve _ => true
  | .nonfetch => true
  | .retiEvent => true
  | .repoll => true
  | .recalcReq => true
  | .recalcSvc _ _ => true
  | .rev8 _ => true
  | .spiExchange _ => true
  | .reset _ => !c.started

/-- `i` is well formed in context `c`. -/
abbrev WellFormed (c : DecodeCtx) (i : Instr) : Prop := i.wellFormed c = true

end Sys2Proof
end

