-- ==== Sys2Proof/Decode.lean ====
section
/-! DEFINITION. The decoder, total on any request and rejecting by name; the encoder, written from the same formats
(30_encoding.md R90 to R102); the pseudo-operations of R104; and the host's view of the opcode table's words. -/

namespace Sys2Proof

/-- Why the decoder rejects a request: the bytes are no request of the named kind. No bit pattern of a format is
itself illegal (R101). -/
inductive DecodeError where
  /-- The number of operand bytes is not the one the kind of operation has. -/
  | wrongLength
  /-- A one-bit operand's byte is neither 0 nor 1. -/
  | notABit
  /-- Bits above the width of the format are not zero. -/
  | tooWide
  /-- RESET after the start: "A model has no `Reset` step after the initial state" (R302; log entry 14). -/
  | resetAfterStart
deriving DecidableEq, Repr

/-! ## The port map (R93, R152) -/

/-- What an unclaimed port address selects (R152). -/
inductive PortTarget where
  | ide (sub : BitVec 3) | fdc (sub : BitVec 3) | ppi (sub : BitVec 2) | led | traceLo | traceHi | unmapped
deriving DecidableEq, Repr

/-- `PortDecode(p)`, first match wins (R152). -/
def portDecode (ide : Bool) (p : Byte) : PortTarget :=
  if 0x10 ≤ p.toNat ∧ p.toNat ≤ 0x17 ∧ ide = true then .ide ((p - 0x10).extractLsb' 0 3)
  else if 0x70 ≤ p.toNat ∧ p.toNat ≤ 0x77 then .fdc ((p - 0x70).extractLsb' 0 3)
  else if 0x78 ≤ p.toNat ∧ p.toNat ≤ 0x7F then .ppi (p.extractLsb' 0 2)
  else if p = 0x0D then .led
  else if p = 0xFD then .traceLo
  else if p = 0xFE then .traceHi
  else .unmapped

/-! ## Operand bytes (log entry 2): the bits low byte first, as the opcode table numbers them -/

/-- A 16-bit value from its bytes. -/
def bytes16 (b0 b1 : Byte) : BitVec 16 := b1 ++ b0

/-- The bytes of a 16-bit value. -/
def toBytes16 (a : BitVec 16) : List Byte := [a.extractLsb' 0 8, a.extractLsb' 8 8]

/-- The bytes of a 20-bit value: three bytes, the four bits above bit 19 zero. -/
def toBytes20 (a : BitVec 20) : List Byte := [a.extractLsb' 0 8, a.extractLsb' 8 8, (0#4) ++ a.extractLsb' 16 4]

/-- The bytes of an address of up to 32 bits (log entry 21). -/
def toBytes32 (n : Nat) : List Byte :=
  [(BitVec.ofNat 32 n).extractLsb' 0 8, (BitVec.ofNat 32 n).extractLsb' 8 8, (BitVec.ofNat 32 n).extractLsb' 16 8,
    (BitVec.ofNat 32 n).extractLsb' 24 8]

/-- An address from its four bytes. -/
def bytes32 (b0 b1 b2 b3 : Byte) : Nat := (b3 ++ b2 ++ b1 ++ b0 : BitVec 32).toNat

/-- The byte of a one-bit operand. -/
def bitByte (b : Bool) : Byte := if b then 1 else 0

/-- A one-bit operand from its byte, handed to the rest of the decoder. -/
def withBit (x : Byte) (k : Bool → Instr) : Except DecodeError Instr :=
  if x = 0 then .ok (k false) else if x = 1 then .ok (k true) else .error .notABit

/-! ## Decoding each format -/

/-- Rows of format PORT8 in the read direction (R93, R150). -/
def decodePort8Read (ide : Bool) (p : Byte) : Instr :=
  match portDecode ide p with
  | .ide sub => .inIde sub
  | .fdc sub => .inFdc sub
  | .ppi sub =>
    if sub = 0 then .inPpiA (p.extractLsb' 2 1)
    else if sub = 1 then .inPpiB (p.extractLsb' 2 1)
    else if sub = 2 then .inPpiC (p.extractLsb' 2 1)
    else .inPpiCtrl (p.extractLsb' 2 1)
  | .led => .inLed
  | .traceLo => .inTraceLo
  | .traceHi => .inTraceHi
  | .unmapped => .inUnmapped p

/-- Rows of format PORT8 in the write direction (R93, R151). -/
def decodePort8Write (ide : Bool) (p v : Byte) : Instr :=
  match portDecode ide p with
  | .ide sub => .outIde sub v
  | .fdc sub => .outFdc sub v
  | .ppi sub =>
    if sub = 0 then .outPpiA (p.extractLsb' 2 1) v
    else if sub = 1 then .outPpiB (p.extractLsb' 2 1) v
    else if sub = 2 then .outPpiC (p.extractLsb' 2 1) v
    else .outPpiCtrl (p.extractLsb' 2 1) v
  | .led => .outLed v
  | .traceLo => .outTraceLo v
  | .traceHi => .outTraceHi v
  | .unmapped => .outUnmapped p v

/-- Format PPICW (R96): bit 7 of the written byte distinguishes the two encodings. -/
def decodePpicw (v : Byte) : Instr :=
  if v.getLsbD 7 then .modeset v else .bsr (v.extractLsb' 4 3) (v.extractLsb' 1 3) (v.getLsbD 0)

/-- Format FETCH8 (R98): rows are selected by the pair of detector state and byte. -/
def decodeFetch8 (det : Det) (b : Byte) : Instr :=
  match det with
  | .idle =>
    if b = Config.pfxIx then .pfxDd
    else if b = Config.pfxIy then .pfxFd
    else if b = Config.pfxBit then .pfxCb
    else if b = Config.pfxExt then .pfxEd
    else .otherIdle b
  | .sawPrefixED => if b = Config.opcReti then .opcReti else .otherSawed b

/-- Format PA20 from its three bytes (R91). -/
def decodePa20 (b0 b1 b2 : Byte) (base ext : BitVec 19 → Instr) : Except DecodeError Instr :=
  if b2.extractLsb' 4 4 = 0 then
    .ok (if b2.getLsbD 3 then ext (b2.extractLsb' 0 3 ++ b1 ++ b0) else base (b2.extractLsb' 0 3 ++ b1 ++ b0))
  else .error .tooWide

/-- One byte that RESET loads: a 24-bit field whose top bit says ROM, and the byte (log entry 2). -/
def decodeImageByte (b0 b1 b2 v : Byte) : Except DecodeError ImageByte :=
  if b2.getLsbD 7 then
    if b2.extractLsb' 3 4 = 0 then .ok (.rom (b2.extractLsb' 0 3 ++ b1 ++ b0) v) else .error .tooWide
  else
    if b2.extractLsb' 4 3 = 0 then .ok (.ram (b2.extractLsb' 0 4 ++ b1 ++ b0) v) else .error .tooWide

/-- The bytes that RESET loads, four operand bytes each. -/
def decodeImage : List Byte → Except DecodeError (List ImageByte)
  | [] => .ok []
  | b0 :: b1 :: b2 :: v :: rest =>
    match decodeImageByte b0 b1 b2 v with
    | .error e => .error e
    | .ok x =>
      match decodeImage rest with
      | .error e => .error e
      | .ok xs => .ok (x :: xs)
  | _ => .error .wrongLength

/-- RESET's parameters, in R300's order but for the images, which come last. -/
def decodeReset (c : DecodeCtx) : List Byte → Except DecodeError Instr
  | t0 :: t1 :: a :: b :: pc :: ctrl :: led :: image =>
    if c.started then .error .resetAfterStart
    else
      match decodeImage image with
      | .error e => .error e
      | .ok xs => .ok (.reset ⟨bytes16 t0 t1, a, b, pc, ctrl, led, xs⟩)
  | _ => .error .wrongLength

/-- An EVENT row with its operands in the order of its rule's argument list. -/
def decodeEvent (c : DecodeCtx) : EventName → List Byte → Except DecodeError Instr
  | .physRead, [b0, b1, b2, b3] => .ok (.physRead (bytes32 b0 b1 b2 b3))
  | .physWrite, [b0, b1, b2, b3, v] => .ok (.physWrite (bytes32 b0 b1 b2 b3) v)
  | .virtRead, [b0, b1, q] => withBit q (.virtRead (bytes16 b0 b1))
  | .virtWrite, [b0, b1, v] => .ok (.virtWrite (bytes16 b0 b1) v)
  | .cpuMemRead, [b0, b1, m] => withBit m (.cpuMemRead (bytes16 b0 b1))
  | .cpuMemWrite, [b0, b1, v] => .ok (.cpuMemWrite (bytes16 b0 b1) v)
  | .portRead, [b0, b1] => .ok (.portRead (bytes16 b0 b1))
  | .portWrite, [b0, b1, v] => .ok (.portWrite (bytes16 b0 b1) v)
  | .csRecalc, [] => .ok .csRecalc
  | .fetchObserve, [b] => .ok (.fetchObserve b)
  | .nonfetch, [] => .ok .nonfetch
  | .retiEvent, [] => .ok .retiEvent
  | .repoll, [] => .ok .repoll
  | .recalcReq, [] => .ok .recalcReq
  | .recalcSvc, [f] => 
    if f.extractLsb' 2 6 = 0 then .ok (.recalcSvc (f.getLsbD 0) (f.getLsbD 1)) else .error .notABit
  | .rev8, [b] => .ok (.rev8 b)
  | .spiExchange, [b] => .ok (.spiExchange b)
  | .reset, bytes => decodeReset c bytes
  | _, _ => .error .wrongLength

/-- The decoder: total on any request, rejecting by name. -/
def decode (c : DecodeCtx) (r : Request) : Except DecodeError Instr :=
  match r.fmt, r.bytes with
  | .port16 .read, [b0, b1] => .ok (.inClaimed (bytes16 b0 b1))
  | .port16 .write, [b0, b1, v] => .ok (.outClaimed (bytes16 b0 b1) v)
  | .port8 .read, [p] => .ok (decodePort8Read c.ideConfigured p)
  | .port8 .write, [p, v] => .ok (decodePort8Write c.ideConfigured p v)
  | .ppicw, [v] => .ok (decodePpicw v)
  | .fetch8, [b] => .ok (decodeFetch8 c.det b)
  | .pa20 .read, [b0, b1, b2] => decodePa20 b0 b1 b2 .memrBase .memrExt
  | .pa20 .write, [b0, b1, b2, v] => decodePa20 b0 b1 b2 (.memwBase · v) (.memwExt · v)
  | .event e, bytes => decodeEvent c e bytes
  | _, _ => .error .wrongLength

/-! ## Encoding -/

/-- The operand bytes of one byte that RESET loads. -/
def encodeImageByte : ImageByte → List Byte
  | .rom i v => [i.extractLsb' 0 8, i.extractLsb' 8 8, (0b10000#5) ++ i.extractLsb' 16 3, v]
  | .ram i v => [i.extractLsb' 0 8, i.extractLsb' 8 8, (0b0000#4) ++ i.extractLsb' 16 4, v]

/-- The request of an operation, from the tables of R91, R93, R95, R96 and R98. -/
def encode : Instr → Request
  | .inClaimed a => ⟨.port16 .read, toBytes16 a⟩
  | .outClaimed a v => ⟨.port16 .write, toBytes16 a ++ [v]⟩
  | .inIde sub => ⟨.port8 .read, [(0b00010#5) ++ sub]⟩
  | .outIde sub v => ⟨.port8 .write, [(0b00010#5) ++ sub, v]⟩
  | .inFdc sub => ⟨.port8 .read, [(0b01110#5) ++ sub]⟩
  | .outFdc sub v => ⟨.port8 .write, [(0b01110#5) ++ sub, v]⟩
  | .inPpiA x => ⟨.port8 .read, [(0b01111#5) ++ x ++ (0b00#2)]⟩
  | .inPpiB x => ⟨.port8 .read, [(0b01111#5) ++ x ++ (0b01#2)]⟩
  | .inPpiC x => ⟨.port8 .read, [(0b01111#5) ++ x ++ (0b10#2)]⟩
  | .inPpiCtrl x => ⟨.port8 .read, [(0b01111#5) ++ x ++ (0b11#2)]⟩
  | .outPpiA x v => ⟨.port8 .write, [(0b01111#5) ++ x ++ (0b00#2), v]⟩
  | .outPpiB x v => ⟨.port8 .write, [(0b01111#5) ++ x ++ (0b01#2), v]⟩
  | .outPpiC x v => ⟨.port8 .write, [(0b01111#5) ++ x ++ (0b10#2), v]⟩
  | .outPpiCtrl x v => ⟨.port8 .write, [(0b01111#5) ++ x ++ (0b11#2), v]⟩
  | .inLed => ⟨.port8 .read, [0x0D]⟩
  | .outLed v => ⟨.port8 .write, [0x0D, v]⟩
  | .inTraceLo => ⟨.port8 .read, [0xFD]⟩
  | .outTraceLo v => ⟨.port8 .write, [0xFD, v]⟩
  | .inTraceHi => ⟨.port8 .read, [0xFE]⟩
  | .outTraceHi v => ⟨.port8 .write, [0xFE, v]⟩
  | .inUnmapped p => ⟨.port8 .read, [p]⟩
  | .outUnmapped p v => ⟨.port8 .write, [p, v]⟩
  | .modeset v => ⟨.ppicw, [v]⟩
  | .bsr ign n b => ⟨.ppicw, [(0b0#1) ++ ign ++ n ++ BitVec.ofBool b]⟩
  | .pfxDd => ⟨.fetch8, [Config.pfxIx]⟩
  | .pfxFd => ⟨.fetch8, [Config.pfxIy]⟩
  | .pfxCb => ⟨.fetch8, [Config.pfxBit]⟩
  | .pfxEd => ⟨.fetch8, [Config.pfxExt]⟩
  | .opcReti => ⟨.fetch8, [Config.opcReti]⟩
  | .otherIdle b => ⟨.fetch8, [b]⟩
  | .otherSawed b => ⟨.fetch8, [b]⟩
  | .memrBase off => ⟨.pa20 .read, toBytes20 ((0b0#1) ++ off)⟩
  | .memrExt off => ⟨.pa20 .read, toBytes20 ((0b1#1) ++ off)⟩
  | .memwBase off v => ⟨.pa20 .write, toBytes20 ((0b0#1) ++ off) ++ [v]⟩
  | .memwExt off v => ⟨.pa20 .write, toBytes20 ((0b1#1) ++ off) ++ [v]⟩
  | .physRead a => ⟨.event .physRead, toBytes32 a⟩
  | .physWrite a v => ⟨.event .physWrite, toBytes32 a ++ [v]⟩
  | .virtRead va quiet => ⟨.event .virtRead, toBytes16 va ++ [bitByte quiet]⟩
  | .virtWrite va v => ⟨.event .virtWrite, toBytes16 va ++ [v]⟩
  | .cpuMemRead va m1 => ⟨.event .cpuMemRead, toBytes16 va ++ [bitByte m1]⟩
  | .cpuMemWrite va v => ⟨.event .cpuMemWrite, toBytes16 va ++ [v]⟩
  | .portRead addr => ⟨.event .portRead, toBytes16 addr⟩
  | .portWrite addr v => ⟨.event .portWrite, toBytes16 addr ++ [v]⟩
  | .csRecalc => ⟨.event .csRecalc, []⟩
  | .fetchObserve b => ⟨.event .fetchObserve, [b]⟩
  | .nonfetch => ⟨.event .nonfetch, []⟩
  | .retiEvent => ⟨.event .retiEvent, []⟩
  | .repoll => ⟨.event .repoll, []⟩
  | .recalcReq => ⟨.event .recalcReq, []⟩
  | .recalcSvc iff1 iff2 => ⟨.event .recalcSvc, [(0b000000#6) ++ BitVec.ofBool iff2 ++ BitVec.ofBool iff1]⟩
  | .rev8 b => ⟨.event .rev8, [b]⟩
  | .spiExchange b => ⟨.event .spiExchange, [b]⟩
  | .reset p =>
    ⟨.event .reset, toBytes16 p.trace ++ [p.portA, p.portB, p.portC, p.ctrl, p.led] ++ p.image.flatMap encodeImageByte⟩

/-! ## Pseudo-operations (R104) -/

/-- `MODE v`: PPI mode set. -/
def pseudoMode (v : Byte) : Instr := .portWrite 0x007B v

/-- `SETC n`: set bit `n` of port C. -/
def pseudoSetC (n : BitVec 3) : Instr := .portWrite 0x007B ((n.setWidth 8 <<< 1) ||| 1)

/-- `CLRC n`: clear bit `n` of port C. -/
def pseudoClrC (n : BitVec 3) : Instr := .portWrite 0x007B (n.setWidth 8 <<< 1)

/-- `BANK v`: write the bank control register. -/
def pseudoBank (v : Byte) : Instr := .portWrite 0x0078 v

/-- `RETI va`: the fetch sequence of the CPU's return-from-interrupt instruction (the two bytes are what memory
returns). At `va = 0xFFFF` the second fetch is at 0x0000, where the spec is silent (R9): DESIGN CHOICE, log entry 23,
unsafe. -/
def pseudoReti (va : VirtAddr) : List Instr := [.cpuMemRead va true, .cpuMemRead (va + 1) true]

/-! ## The opcode table's words (log entry 3)

One bit pattern belongs to rows of several formats, and R90 decides between them by the kind of operation, which a
word does not carry. The word is taken as the most specific row of its width, the first in the table among equals. -/

/-- The request that a table word stands for. -/
def tableRequest (nbits w : Nat) : Request :=
  let b0 := BitVec.ofNat 8 w
  let b1 := BitVec.ofNat 8 (w / 2 ^ 8)
  let b2 := BitVec.ofNat 8 (w / 2 ^ 16)
  if nbits = 0 then ⟨.event .physRead, [0, 0, 0, 0]⟩
  else if nbits = 8 then
    if b0 = Config.pfxIx ∨ b0 = Config.pfxBit ∨ b0 = Config.pfxExt ∨ b0 = Config.opcReti then ⟨.fetch8, [b0]⟩
    else if portDecode true b0 ≠ .unmapped then ⟨.port8 .read, [b0]⟩
    else ⟨.ppicw, [b0]⟩
  else if nbits = 16 then ⟨.port16 .read, [b0, b1]⟩
  else if nbits = 24 then ⟨.pa20 .read, [b0, b1, b2]⟩
  else ⟨.event .physRead, []⟩

/-- The detector state under which a table word's row is selected (R98). -/
def tableDet (r : Request) : Det := if r.bytes = [Config.opcReti] then .sawPrefixED else .idle

/-- The instruction that the decoder reads from a table word, under the row's condition. -/
def decodeTableWord (nbits w : Nat) : Option Instr :=
  (decode ⟨true, tableDet (tableRequest nbits w), false⟩ (tableRequest nbits w)).toOption

end Sys2Proof
end

