-- ==== Sys2Proof/Machine/State.lean ====
section
/-! DEFINITION. The state of the block: every field of the spec's record `S` (10_state.md), the run parameters of
00_scope.md R6, and the model's own fields for what reaches the block and what it sends out. Plain data. -/

namespace Sys2Proof.Machine

/-- A sparse byte array: the bytes stored since reset, addresses strictly rising. An address it does not list holds no
stored byte (log entry 6). -/
abbrev Memory := List Host.Cell

/-- The parameters that are fixed for a run (R6, R36): no operation writes them. -/
structure Params where
  /-- `IDE_CONFIGURED` (R158). -/
  ideConfigured : Bool
  /-- `SPI_ATTACHED` (R261). -/
  spiAttached   : Bool
  /-- `DET_ON_NONFETCH` (R237). -/
  detOnNonfetch : NonfetchPolicy
  /-- `DMA_ACTIVE` (R76, D23): whether the DMA engine is one of the agents that ask for operations (log entry 17). -/
  dmaActive     : Bool
deriving DecidableEq, Repr

/-- Answers of the external collaborators fixed in advance, the next one first. An empty list means that the answer is
a free value of Config (R11; log entry 4). -/
structure Answers where
  translate : List Nat
  claims    : List Bool
  ctlRead   : List Byte
  /-- Does the controller call `RecalcRequest` inside this `ext.CtlWrite` (log entry 5). -/
  ctlWrite  : List Bool
  ideRead   : List Byte
  fdcRead   : List Byte
  /-- Does the floppy controller call `RecalcRequest` inside this `ext.FdcWrite` (log entry 5). -/
  fdcWrite  : List Bool
  spiXfer   : List Byte
  poll      : List Bool
deriving DecidableEq, Repr

/-- The diagnostics of 60_exceptions.md R271. -/
inductive Diag where
  | romWrite (a : PhysAddr) (v : Byte)
  | extWriteDisabled (a : PhysAddr) (v : Byte)
  | unknownPortRead (p : Byte)
  | unknownPortWrite (p : Byte) (v : Byte)
  | ppiBadSubRead (sub : Nat)
  | ppiBadSubWrite (sub : Nat) (v : Byte)
  | memTrace (d : Dir) (va : VirtAddr) (pa : PhysAddr) (v : Byte)
  | portTrace (d : Dir) (addr : PortAddr)
  | irqTraceReti
deriving DecidableEq, Repr

/-- Where the CPU stands in its instructions, as its operations tell (R242; log entry 18). -/
inductive CpuAt where
  /-- Between two CPU instructions. -/
  | boundary
  /-- After prefix bytes 0xDD or 0xFD only: the opcode is still to be fetched. -/
  | prefixed
  /-- Between the two opcode bytes of an instruction whose first is 0xED, RETI among them. -/
  | extended
  /-- Anywhere else inside an instruction. -/
  | inside
deriving DecidableEq, Repr

/-- The block's state. -/
structure State where
  /-- `S.PA`, which is also `BCR` (R20, R23). -/
  portA   : Byte
  /-- `S.PB` (R20). -/
  portB   : Byte
  /-- `S.PC` (R20). -/
  portC   : Byte
  /-- `S.CTRL` (R21, R22). -/
  ctrl    : Byte
  /-- `S.cs`, the chip-select cache (R30). -/
  cs      : BitVec 3
  /-- `S.liveIrq` (R27). -/
  liveIrq : Bool
  /-- `S.recalc` (R28). -/
  recalc  : Bool
  /-- `S.det` (R29). -/
  det     : Det
  /-- `S.trace` (R24). -/
  trace   : BitVec 16
  /-- `S.led` (R25). -/
  led     : Byte
  /-- `RAM` (R33): the bytes stored since reset. -/
  ram     : Memory
  /-- `ROM` (R34): the bytes of the image that `Reset` was given. -/
  rom     : Memory
  /-- The run parameters (R6). -/
  params  : Params
  /-- The byte the last operation put on the data bus, if it returns one (R10 `return`; log entry 15). -/
  ret     : Option Byte
  /-- Calls and events sent to the external collaborators, newest first (R10 `ext`, `emit`; log entry 4). -/
  history : List ExtCall
  /-- Answers fixed in advance (log entry 4). -/
  answers : Answers
  /-- Diagnostics reported, newest first; read by no rule (R271; log entry 16). -/
  diags   : List Diag
  /-- The operations that agents have asked for, oldest first (R7; log entry 1). -/
  pending : List Asked
  /-- An operation has been performed since startup (R302; log entry 14). -/
  started : Bool
  /-- Where the CPU stands in its instructions (R242; log entry 18). -/
  cpuAt   : CpuAt
deriving DecidableEq, Repr

/-- The ways an operation can fault: none. "No operation … traps, faults, aborts or returns an error code; every
operation is total on its inputs and always completes" (R270). -/
inductive Fault
deriving DecidableEq, Repr

/-- The ways a step can be refused. -/
inductive Refusal where
  /-- Raised by an arm of `exec` for an operation with no meaning yet (safe). No arm raises it. -/
  | notModelled (mnemonic : String)
  /-- Raised by `step` when the bytes of the request whose turn it is are no request, or ask for a RESET after the start (safe: the
  machine stops; log entries 2 and 14). -/
  | undecodable (e : DecodeError)
deriving DecidableEq, Repr

/-- The outcome of an operation. -/
abbrev Result := Host.Outcome State Fault Refusal

/-- The state right after `Reset` (R38, R300), with the parameters that the spec leaves OPEN at the values of log
entries 6, 7, 8, 10 and 17. -/
def State.reset : State where
  portA   := Config.portAReset
  portB   := Config.portBReset
  portC   := Config.portCReset
  ctrl    := Config.ctrlReset
  cs      := Config.portCReset.extractLsb' 0 3
  liveIrq := false
  recalc  := false
  det     := .idle
  trace   := Config.traceInit
  led     := Config.ledReset
  ram     := []
  rom     := []
  params  := ⟨Config.ideConfigured, Config.spiAttached, Config.detOnNonfetch, Config.dmaActive⟩
  ret     := none
  history := []
  answers := ⟨[], [], [], [], [], [], [], [], []⟩
  diags   := []
  pending := []
  started := false
  cpuAt   := .boundary

end Sys2Proof.Machine
end

