-- ==== Sys2Proof/Machine/Flags.lean ====
section
/-! DEFINITION. The computations of the two flags `S.liveIrq` and `S.recalc`, and of the detector. -/

namespace Sys2Proof.Machine

/-- `S.liveIrq` after a re-poll that answered `raised` (R239). -/
def liveAfterPoll (live raised : Bool) : Bool := if raised then true else live

/-- `S.recalc` after the clearing clause of `RecalcService` (R241): cleared when neither enable is set. -/
def recalcAfterService (recalc iff1 iff2 : Bool) : Bool := if !iff1 && !iff2 then false else recalc

/-- The classes into which the detector sorts a fetched byte (R98). -/
inductive FetchClass where
  | pfxOther | pfxExt | opcReti | other
deriving DecidableEq, Repr

/-- The class of a fetched byte (R98). -/
def fetchClass (b : Byte) : FetchClass :=
  if b = Config.pfxIx ∨ b = Config.pfxIy ∨ b = Config.pfxBit then .pfxOther
  else if b = Config.pfxExt then .pfxExt
  else if b = Config.opcReti then .opcReti
  else .other

/-- The detector's next state (R236). -/
def detNext (d : Det) (b : Byte) : Det :=
  match d, fetchClass b with
  | .idle, .pfxExt => .sawPrefixED
  | .idle, .pfxOther => .idle
  | .idle, .opcReti => .idle
  | .idle, .other => .idle
  | .sawPrefixED, _ => .idle

/-- Whether the detector's step fires the RETI event (R236). -/
def detFires (d : Det) (b : Byte) : Bool :=
  match d, fetchClass b with
  | .sawPrefixED, .opcReti => true
  | _, _ => false

end Sys2Proof.Machine
end

