-- ==== Sys2Proof/Machine/Operands.lean ====
section
/-! DEFINITION. Operand forms: masking an address to 20 or 8 bits, bank bits, PPI directions, bit reversal, and the
bytes of the sparse arrays. -/

namespace Sys2Proof.Machine

/-- `a & 0xFFFFF` (R91, R130). -/
def maskPhys (a : Nat) : PhysAddr := BitVec.ofNat 20 a

/-- `addr & 0xFF` (R155). -/
def maskPort (addr : PortAddr) : Byte := addr.extractLsb' 0 8

/-- Bit 19 of a physical address: the extended half (R91). -/
def extendedHalf (a : PhysAddr) : Bool := a.getLsbD 19

/-- The physical address of an offset in the base half (R91). -/
def baseAddr (off : BitVec 19) : PhysAddr := (0b0#1) ++ off

/-- The physical address of an offset in the extended half (R91). -/
def extAddr (off : BitVec 19) : PhysAddr := (0b1#1) ++ off

/-- The ROM-enable bit, `BCR[3]` (R23). -/
def State.romEnabled (s : State) : Bool := s.portA.getLsbD Config.bcrRomBit

/-- The extended-memory-enable bit, `BCR[2]` (R23). -/
def State.extEnabled (s : State) : Bool := s.portA.getLsbD Config.bcrExtBit

/-- The select value `S.PC[2:0]`, format CS3 (R99). -/
def selectOf (portC : Byte) : BitVec 3 := portC.extractLsb' 0 3

/-- `Rev8(b)` (R260): result bit `i` is `b[7 - i]`. -/
def bitReverse (b : Byte) : Byte :=
  BitVec.ofBool (b.getLsbD 0) ++ BitVec.ofBool (b.getLsbD 1) ++ BitVec.ofBool (b.getLsbD 2) ++
  BitVec.ofBool (b.getLsbD 3) ++ BitVec.ofBool (b.getLsbD 4) ++ BitVec.ofBool (b.getLsbD 5) ++
  BitVec.ofBool (b.getLsbD 6) ++ BitVec.ofBool (b.getLsbD 7)

/-- A bit set/reset command's effect on port C (R200): bit `n` set or cleared. -/
def setBit (portC : Byte) (n : Nat) (b : Bool) : Byte :=
  if b then portC ||| ((1 : Byte) <<< n) else portC &&& ~~~((1 : Byte) <<< n)

/-- What a read of port A returns (R190). -/
def State.portARead (s : State) : Byte := if s.ctrl.getLsbD Config.dirABit then Config.openBus else s.portA

/-- What a read of port B returns (R191). -/
def State.portBRead (s : State) : Byte := if s.ctrl.getLsbD Config.dirBBit then Config.openBus else s.portB

/-- What a read of port C returns, nibble by nibble (R192). -/
def State.portCRead (s : State) : Byte :=
  (if s.ctrl.getLsbD Config.dirCUBit then (0xF#4) else s.portC.extractLsb' 4 4) ++
  (if s.ctrl.getLsbD Config.dirCLBit then (0xF#4) else s.portC.extractLsb' 0 4)

/-! ## The sparse byte arrays (log entry 6) -/

/-- The byte stored at an address, if one is. -/
def Memory.get? : Memory → Nat → Option Byte
  | [], _ => none
  | (k, v) :: m, a => if a = k then some v else Memory.get? m a

/-- Store a byte at an address, keeping the addresses strictly rising. -/
def Memory.put : Memory → Nat → Byte → Memory
  | [], a, v => [(a, v)]
  | (k, w) :: m, a, v =>
    if a < k then (a, v) :: (k, w) :: m
    else if a = k then (a, v) :: m
    else (k, w) :: Memory.put m a v

/-- The canonical form: addresses strictly rising. -/
def Memory.wf : Memory → Bool
  | [] => true
  | [_] => true
  | (a, _) :: (b, w) :: m => decide (a < b) && Memory.wf ((b, w) :: m)

/-- Every listed address is below a bound. -/
def Memory.below (n : Nat) : Memory → Bool
  | [] => true
  | (a, _) :: m => decide (a < n) && Memory.below n m

/-- The byte `RAM[i]`: the one stored last, or the arbitrary byte `RAM_INIT[i]` (R33, R70). This is the one place that
says what an address nothing has written reads as. -/
def State.ramAt (s : State) (i : Nat) : Byte := (Memory.get? s.ram i).getD (Config.ramInit i)

/-- The byte `ROM[i]` (R34). -/
def State.romAt (s : State) (i : Nat) : Byte := (Memory.get? s.rom i).getD (Config.romImage i)

end Sys2Proof.Machine
end

