-- ==== Sys2Proof/Machine/Ops.lean ====
section
/-! DEFINITION. The named operations that the meanings share: field updates, the external collaborators, the bank
decoder, the PPI, the port multiplexer, the detector with the RETI event and the re-poll, the SPI bridge, and Reset. The
block takes and returns from no exception (R270, R276, R277): its part in an interrupt's entry is `repoll`, its part in
the return is `retiEvent`. -/

namespace Sys2Proof.Machine

/-! ## Field updates -/

/-- Put a byte on the data bus (R10 `return v`). -/
def State.setRet (s : State) (v : Byte) : State := { s with ret := some v }
/-- An operation that returns nothing (log entry 15). -/
def State.noRet (s : State) : State := { s with ret := none }
/-- Store port A, which is `BCR` (R23). -/
def State.setPortA (s : State) (v : Byte) : State := { s with portA := v }
/-- Store port B. -/
def State.setPortB (s : State) (v : Byte) : State := { s with portB := v }
/-- Store port C. -/
def State.setPortC (s : State) (v : Byte) : State := { s with portC := v }
/-- Replace the PPI control register. -/
def State.setCtrl (s : State) (v : Byte) : State := { s with ctrl := v }
/-- Update the chip-select cache. -/
def State.setCs (s : State) (v : BitVec 3) : State := { s with cs := v }
/-- Write `S.liveIrq`. -/
def State.setLive (s : State) (v : Bool) : State := { s with liveIrq := v }
/-- Write `S.recalc`. -/
def State.setRecalc (s : State) (v : Bool) : State := { s with recalc := v }
/-- Write `S.det`. -/
def State.setDet (s : State) (v : Det) : State := { s with det := v }
/-- Write `S.trace`. -/
def State.setTrace (s : State) (v : BitVec 16) : State := { s with trace := v }
/-- Write `S.led`. -/
def State.setLed (s : State) (v : Byte) : State := { s with led := v }
/-- Store a byte of RAM. -/
def State.storeRam (s : State) (a : PhysAddr) (v : Byte) : State := { s with ram := Memory.put s.ram a.toNat v }
/-- Report a diagnostic on the side channel (R10 `diag`, R271). -/
def State.report (s : State) (d : Diag) : State := { s with diags := d :: s.diags }
/-- Report a trace diagnostic where the trace level opens its gate (R24, R271). -/
def State.traceIf (s : State) (g : TraceGate) (d : Diag) : State :=
  { s with diags := if Config.traceGate g s.trace then d :: s.diags else s.diags }

/-! ## External collaborators (R4, R10, R11; log entry 4) -/

/-- The answers left after a call has taken its own. -/
def Answers.afterCall (t : Answers) : ExtCall → Answers
  | .translate _ => { t with translate := t.translate.tail }
  | .claims _ => { t with claims := t.claims.tail }
  | .ctlRead _ => { t with ctlRead := t.ctlRead.tail }
  | .ctlWrite _ _ => { t with ctlWrite := t.ctlWrite.tail }
  | .ideRead _ => { t with ideRead := t.ideRead.tail }
  | .ideWrite _ _ => t
  | .fdcRead _ => { t with fdcRead := t.fdcRead.tail }
  | .fdcWrite _ _ => { t with fdcWrite := t.fdcWrite.tail }
  | .spiXfer _ => { t with spiXfer := t.spiXfer.tail }
  | .poll => { t with poll := t.poll.tail }
  | .csLower => t
  | .csRaise => t

/-- Call a collaborator, or emit an event to one. -/
def State.call (s : State) (c : ExtCall) : State :=
  { s with history := c :: s.history, answers := s.answers.afterCall c }

/-- What `ext.Translate(va)` answers now. -/
def State.translateAnswer (s : State) (va : VirtAddr) : Nat := s.answers.translate.headD (Config.translate s.history va)
/-- What `ext.Claims(addr)` answers now. -/
def State.claimsAnswer (s : State) (addr : PortAddr) : Bool := s.answers.claims.headD (Config.claims s.history addr)
/-- What `ext.CtlRead(addr)` answers now. -/
def State.ctlReadAnswer (s : State) (addr : PortAddr) : Byte := s.answers.ctlRead.headD (Config.ctlRead s.history addr)
/-- Whether the controller calls `RecalcRequest` inside an `ext.CtlWrite(addr, v)` made now (log entry 5). -/
def State.ctlWriteRequests (s : State) (addr : PortAddr) (v : Byte) : Bool :=
  s.answers.ctlWrite.headD (Config.ctlWriteRequests s.history addr v)
/-- What `ext.IdeRead(sub)` answers now. -/
def State.ideReadAnswer (s : State) (sub : BitVec 3) : Byte := s.answers.ideRead.headD (Config.ideRead s.history sub)
/-- What `ext.FdcRead(sub)` answers now. -/
def State.fdcReadAnswer (s : State) (sub : BitVec 3) : Byte := s.answers.fdcRead.headD (Config.fdcRead s.history sub)
/-- Whether the floppy controller calls `RecalcRequest` inside an `ext.FdcWrite(sub, v)` made now (log entry 5). -/
def State.fdcWriteRequests (s : State) (sub : BitVec 3) (v : Byte) : Bool :=
  s.answers.fdcWrite.headD (Config.fdcWriteRequests s.history sub v)
/-- What `ext.SpiXfer(b)` answers now. -/
def State.spiXferAnswer (s : State) (b : Byte) : Byte := s.answers.spiXfer.headD (Config.spiXfer s.history b)
/-- What `ext.Poll()` answers now. -/
def State.pollAnswer (s : State) : Bool := s.answers.poll.headD (Config.poll s.history)

/-! ## The bank-selection decoder (40_bus_memory.md) -/

/-- `BaseRead(a20)` (R131). -/
def baseRead (s : State) (a : PhysAddr) : Byte := if s.romEnabled then s.romAt a.toNat else s.ramAt a.toNat

/-- `ExtRead(a20)` (R132). -/
def extRead (s : State) (a : PhysAddr) : Byte := if s.extEnabled then s.ramAt a.toNat else Config.openBus

/-- `PhysRead(a)` (R130): the byte read; no state is written. -/
def physByte (s : State) (a : Nat) : Byte :=
  if extendedHalf (maskPhys a) then extRead s (maskPhys a) else baseRead s (maskPhys a)

/-- `BaseWrite(a20, v)` (R134). -/
def baseWrite (a : PhysAddr) (v : Byte) (s : State) : State :=
  if s.romEnabled then s.report (.romWrite a v) else s.storeRam a v

/-- `ExtWrite(a20, v)` (R135). -/
def extWrite (a : PhysAddr) (v : Byte) (s : State) : State :=
  if s.extEnabled then s.storeRam a v else s.report (.extWriteDisabled a v)

/-- `PhysWrite(a, v)` (R133). -/
def physWrite (a : Nat) (v : Byte) (s : State) : State :=
  if extendedHalf (maskPhys a) then extWrite (maskPhys a) v s else baseWrite (maskPhys a) v s

/-- The physical address that a program address has now: `ext.Translate(va) & 0xFFFFF` (R68). -/
def State.physOf (s : State) (va : VirtAddr) : PhysAddr := maskPhys (s.translateAnswer va)

/-- The byte that a virtual read returns now (R136). -/
def virtByte (s : State) (va : VirtAddr) : Byte := physByte s (s.physOf va).toNat

/-- `VirtRead(va, quiet)` (R136): the translation is asked for, the byte is returned, and the access is traced unless
`quiet`. -/
def virtRead (va : VirtAddr) (quiet : Bool) (s : State) : State :=
  if quiet then (s.call (.translate va)).setRet (virtByte s va)
  else ((s.call (.translate va)).traceIf .memoryAccess (.memTrace .read va (s.physOf va) (virtByte s va))).setRet
    (virtByte s va)

/-- `VirtWrite(va, v)` (R137). -/
def virtWrite (va : VirtAddr) (v : Byte) (s : State) : State :=
  (physWrite (s.physOf va).toNat v (s.call (.translate va))).traceIf .memoryAccess (.memTrace .write va (s.physOf va) v)

/-! ## Interrupt mediation (43_interrupt_mediation.md) -/

/-- `Repoll()` (R239): the only path by which an interrupt is raised to the CPU (R276). -/
def repoll (s : State) : State := (s.call .poll).setLive (liveAfterPoll s.liveIrq s.pollAnswer)

/-- `RetiEvent()` (R238): clear `S.liveIrq`, then re-poll (R71, R277). -/
def retiEvent (s : State) : State := repoll ((s.setLive false).traceIf .interrupt .irqTraceReti)

/-- `FetchObserve(b)` (R230): the detector's step, and the RETI event when it fires. -/
def fetchObserve (b : Byte) (s : State) : State :=
  if detFires s.det b then retiEvent (s.setDet (detNext s.det b)) else s.setDet (detNext s.det b)

/-- `NonFetchObserve()` (R237). -/
def nonFetchObserve (s : State) : State :=
  match s.params.detOnNonfetch with
  | .idle => s.setDet .idle
  | .keep => s

/-- `RecalcRequest()` (R240). -/
def recalcRequest (s : State) : State := s.setRecalc true

/-- A `RecalcRequest` that a collaborator makes, or does not, inside a delegated call (R240; log entry 5). -/
def recalcRequestIf (requests : Bool) (s : State) : State := s.setRecalc (if requests then true else s.recalc)

/-- `RecalcService(iff1, iff2)` (R241): the conditional re-poll, then the conditional clearing. -/
def recalcService (iff1 iff2 : Bool) (s : State) : State :=
  if s.recalc then
    if s.liveIrq then s.setRecalc (recalcAfterService true iff1 iff2)
    else (repoll s).setRecalc (recalcAfterService true iff1 iff2)
  else s

/-- `CpuMemRead(va, m1)` (R138): the memory access, then the detector's step on the byte it returned. -/
def cpuMemRead (va : VirtAddr) (m1 : Bool) (s : State) : State :=
  if m1 then fetchObserve (virtByte s va) (virtRead va false s) else nonFetchObserve (virtRead va false s)

/-! ## The PPI (42_ppi.md) -/

/-- `CsRecalc()` (R202): compare the select with the cache, emit at most one event, update the cache. -/
def csRecalc (s : State) : State :=
  if selectOf s.portC = s.cs then s.setCs (selectOf s.portC)
  else if selectOf s.portC = 0 then (s.call .csLower).setCs (selectOf s.portC)
  else if s.cs = 0 then (s.call .csRaise).setCs (selectOf s.portC)
  else s.setCs (selectOf s.portC)

/-- `PpiRead(sub)` (R190 to R194). -/
def ppiRead (sub : Nat) (s : State) : State :=
  match sub with
  | 0 => s.setRet s.portARead
  | 1 => s.setRet s.portBRead
  | 2 => s.setRet s.portCRead
  | 3 => s.setRet s.ctrl
  | n + 4 => (s.report (.ppiBadSubRead (n + 4))).setRet Config.openBus

/-- `ModeSet(v)` (R199). -/
def modeSet (v : Byte) (s : State) : State := s.setCtrl v

/-- `BitSetReset(v)` (R200): bit index `v[3:1]`, value `v[0]`. -/
def bitSetReset (v : Byte) (s : State) : State :=
  s.setPortC (setBit s.portC (v.extractLsb' 1 3).toNat (v.getLsbD 0))

/-- A byte written to the PPI control address, before the chip-select recalculation (R198). -/
def controlWrite (v : Byte) (s : State) : State := if v.getLsbD 7 then modeSet v s else bitSetReset v s

/-- `PpiWrite(sub, v)` (R195 to R198, R201): the store, then `CsRecalc()`. -/
def ppiWrite (sub : Nat) (v : Byte) (s : State) : State :=
  match sub with
  | 0 => csRecalc (s.setPortA v)
  | 1 => csRecalc (s.setPortB v)
  | 2 => csRecalc (s.setPortC v)
  | 3 => csRecalc (controlWrite v s)
  | n + 4 => csRecalc (s.report (.ppiBadSubWrite (n + 4) v))

/-! ## The port multiplexer (41_io_port_decoder.md) -/

/-- The delegated part of a claimed read (R153). -/
def claimedRead (addr : PortAddr) (s : State) : State := (s.call (.ctlRead addr)).setRet (s.ctlReadAnswer addr)
/-- The delegated part of a claimed write (R154). -/
def claimedWrite (addr : PortAddr) (v : Byte) (s : State) : State :=
  recalcRequestIf (s.ctlWriteRequests addr v) (s.call (.ctlWrite addr v))
/-- IDE read (R156). -/
def ideRead (sub : BitVec 3) (s : State) : State := (s.call (.ideRead sub)).setRet (s.ideReadAnswer sub)
/-- IDE write (R157). -/
def ideWrite (sub : BitVec 3) (v : Byte) (s : State) : State := s.call (.ideWrite sub v)
/-- Floppy controller read (R159). -/
def fdcRead (sub : BitVec 3) (s : State) : State := (s.call (.fdcRead sub)).setRet (s.fdcReadAnswer sub)
/-- Floppy controller write (R160). -/
def fdcWrite (sub : BitVec 3) (v : Byte) (s : State) : State :=
  recalcRequestIf (s.fdcWriteRequests sub v) (s.call (.fdcWrite sub v))
/-- A read of an output-only port: 0xFF (R165, R167, R169). -/
def outputPortRead (s : State) : State := s.setRet Config.openBus
/-- LED write (R166). -/
def ledWrite (v : Byte) (s : State) : State := s.setLed v
/-- Trace-low write (R168). -/
def traceLoWrite (v : Byte) (s : State) : State := s.setTrace (s.trace.extractLsb' 8 8 ++ v)
/-- Trace-high write (R170). -/
def traceHiWrite (v : Byte) (s : State) : State := s.setTrace (v ++ s.trace.extractLsb' 0 8)
/-- Unmapped read (R171). -/
def unmappedRead (p : Byte) (s : State) : State := (s.report (.unknownPortRead p)).setRet Config.openBus
/-- Unmapped write (R172). -/
def unmappedWrite (p v : Byte) (s : State) : State := s.report (.unknownPortWrite p v)

/-- The read of what an unclaimed port selects (R150). -/
def targetRead (t : PortTarget) (p : Byte) (s : State) : State :=
  match t with
  | .ide sub => ideRead sub s
  | .fdc sub => fdcRead sub s
  | .ppi sub => ppiRead sub.toNat s
  | .led => outputPortRead s
  | .traceLo => outputPortRead s
  | .traceHi => outputPortRead s
  | .unmapped => unmappedRead p s

/-- The write of what an unclaimed port selects (R151). -/
def targetWrite (t : PortTarget) (p v : Byte) (s : State) : State :=
  match t with
  | .ide sub => ideWrite sub v s
  | .fdc sub => fdcWrite sub v s
  | .ppi sub => ppiWrite sub.toNat v s
  | .led => ledWrite v s
  | .traceLo => traceLoWrite v s
  | .traceHi => traceHiWrite v s
  | .unmapped => unmappedWrite p v s

/-- The claim check that begins every port operation (R71), traced (log entry 16). -/
def claimCheck (d : Dir) (addr : PortAddr) (s : State) : State :=
  (s.call (.claims addr)).traceIf .portAccess (.portTrace d addr)

/-- `PortRead(addr)` (R150). -/
def portRead (addr : PortAddr) (s : State) : State :=
  if s.claimsAnswer addr then claimedRead addr (claimCheck .read addr s)
  else targetRead (portDecode s.params.ideConfigured (maskPort addr)) (maskPort addr) (claimCheck .read addr s)

/-- `PortWrite(addr, v)` (R151). -/
def portWrite (addr : PortAddr) (v : Byte) (s : State) : State :=
  if s.claimsAnswer addr then claimedWrite addr v (claimCheck .write addr s)
  else targetWrite (portDecode s.params.ideConfigured (maskPort addr)) (maskPort addr) v (claimCheck .write addr s)

/-! ## The SPI bridge (44_spi_bridge.md) -/

/-- `SpiExchange(b)` (R261). -/
def spiExchange (b : Byte) (s : State) : State :=
  if s.params.spiAttached then
    (s.call (.spiXfer (bitReverse b))).setRet (bitReverse (s.spiXferAnswer (bitReverse b)))
  else s.setRet Config.openBus

/-! ## Reset (70_reset_and_hazards.md) -/

/-- The loop that loads the ROM image (R300). -/
def loadRom : List ImageByte → Memory → Memory
  | [], m => m
  | .rom i v :: xs, m => loadRom xs (Memory.put m i.toNat v)
  | .ram _ _ :: xs, m => loadRom xs m

/-- The loop that fills RAM (R300). -/
def loadRam : List ImageByte → Memory → Memory
  | [], m => m
  | .rom _ _ :: xs, m => loadRam xs m
  | .ram i v :: xs, m => loadRam xs (Memory.put m i.toNat v)

/-- `Reset(...)` (R300): no event, no call to a collaborator (R301). -/
def resetWith (p : ResetParams) (s : State) : State :=
  { s with
    portA := p.portA, portB := p.portB, portC := p.portC, ctrl := p.ctrl, cs := selectOf p.portC
    liveIrq := false, recalc := false, det := .idle, trace := p.trace, led := p.led
    ram := loadRam p.image [], rom := loadRom p.image [] }

/-! ## Taking the next request (log entry 1) -/

/-- What the decoder reads besides the bytes. -/
def State.ctx (s : State) : DecodeCtx := ⟨s.params.ideConfigured, s.det, s.started⟩

/-- Hand a request over: `rest` still waits. -/
def State.takeRequest (s : State) (rest : List Asked) : State := { s with pending := rest }

/-- The agent that asks for an operation (R7): each row of R7's table, the parts of an entry point that the opcode table lists
on their own with the agent that runs them, and the physical accesses that the DMA engine makes as its own (R76, D23; log
entry 18). -/
def askedBy (dma : Bool) : Instr → Agent
  | .recalcReq => .peripheral
  | .rev8 _ => .peripheral
  | .spiExchange _ => .peripheral
  | .recalcSvc _ _ => .scheduler
  | .reset _ => .host
  | .virtRead _ quiet => if quiet then .tool else .cpu
  | .physRead _ => if dma then .dma else .tool
  | .memrBase _ => if dma then .dma else .tool
  | .memrExt _ => if dma then .dma else .tool
  | .physWrite _ _ => if dma then .dma else .cpu
  | .memwBase _ _ => if dma then .dma else .cpu
  | .memwExt _ _ => if dma then .dma else .cpu
  | _ => .cpu

/-- Whether an operation may stand at this point of the order: the scheduler's at every instruction boundary and nowhere
else (R242), DMA's at every instruction boundary while `DMA_ACTIVE` (R76, D23), every other agent's anywhere. -/
def State.inTurn (s : State) (dma : Bool) (i : Instr) : Bool :=
  match askedBy dma i with
  | .scheduler => s.cpuAt == .boundary
  | .dma => s.params.dmaActive && s.cpuAt == .boundary
  | .cpu => true
  | .peripheral => true
  | .tool => true
  | .host => true

/-- Whether a request waits for its turn (log entry 18). -/
def State.waits (s : State) (q : Asked) : Bool :=
  match decode s.ctx q.request with
  | .ok i => !s.inTurn q.dma i
  | .error _ => false

/-- The byte that an operation of the CPU fetches as an opcode (R138, R230), if it is an opcode fetch. -/
def fetchedByte (i : Instr) (s : State) : Option Byte :=
  match i with
  | .pfxDd => some Config.pfxIx
  | .pfxFd => some Config.pfxIy
  | .pfxCb => some Config.pfxBit
  | .pfxEd => some Config.pfxExt
  | .opcReti => some Config.opcReti
  | .otherIdle b => some b
  | .otherSawed b => some b
  | .fetchObserve b => some b
  | .cpuMemRead va m1 => if m1 then some (virtByte s va) else none
  | _ => none

/-- Whether an operation is a non-fetch read of the CPU (R237). -/
def isOperandRead : Instr → Bool
  | .nonfetch => true
  | .cpuMemRead _ m1 => !m1
  | _ => false

/-- Whether the next opcode byte is the first of its instruction, prefixes 0xDD and 0xFD apart. -/
def CpuAt.opcodeNext : CpuAt → Bool
  | .boundary => true
  | .prefixed => true
  | .extended => false
  | .inside => false

/-- Where the CPU stands after an opcode fetch of `b`. The CPU says whether its instruction ends with it, but an 0xED as the
opcode never ends one (R237's note on this CPU; log entry 18). -/
def CpuAt.afterFetch (c : CpuAt) (ends : Bool) (b : Byte) : CpuAt :=
  if c.opcodeNext = true ∧ b = Config.pfxExt then .extended
  else if ends then .boundary
  else if c.opcodeNext = true ∧ (b = Config.pfxIx ∨ b = Config.pfxIy) then .prefixed
  else .inside

/-- Where the CPU stands after an operation that led from `before` to `after` (R242; log entry 18). Another agent's leaves it
as it is. The CPU's own say whether their instruction ends, but none ends between the two opcode bytes that begin with 0xED:
until the second is fetched, or a non-fetch read takes its place and leaves the detector `Idle`. -/
def cpuAfter (q : Asked) (i : Instr) (before after : State) : CpuAt :=
  if askedBy q.dma i ≠ .cpu then before.cpuAt
  else match fetchedByte i before with
    | some b => before.cpuAt.afterFetch q.ends b
    | none =>
      if before.cpuAt = .extended ∧ ¬(isOperandRead i = true ∧ after.det = .idle) then .extended
      else if q.ends then .boundary else .inside

/-- Record that an operation has been performed (R302), and where the CPU stands after it. -/
def State.finish (s : State) (c : CpuAt) : State := { s with started := true, cpuAt := c }

/-- The outcome of the operation that a request asked for at a state, with the state it leaves recorded. -/
def finished (q : Asked) (i : Instr) (before : State) (r : Result) : Result :=
  match r with
  | .next t => .next (t.finish (cpuAfter q i before t))
  | .fault f => .fault f
  | .refused x => .refused x

/-- The answer of `State.withFetchWord`: the request of a table word as the next one, under its row's condition (log
entry 3). -/
def placeRequest (s : State) (r : Request) : State :=
  { s with
    pending := ⟨r, true, false⟩ :: s.pending
    det := if r.fmt = .fetch8 then tableDet r else s.det
    params := if r.fmt = .port8 .read ∧ r.bytes.any idePort = true then
      { s.params with ideConfigured := true } else s.params }

end Sys2Proof.Machine
end

