-- ==== Sys2Proof/Machine/Bus.lean ====
section
/-! DEFINITION. The meanings of the bus and memory operations (40_bus_memory.md). -/

namespace Sys2Proof.Machine

/-- MEMR.BASE, R131. -/
def execMemrBase (off : BitVec 19) (s : State) : Result := .next (s.setRet (baseRead s (baseAddr off)))

/-- MEMR.EXT, R132. -/
def execMemrExt (off : BitVec 19) (s : State) : Result := .next (s.setRet (extRead s (extAddr off)))

/-- MEMW.BASE, R134. -/
def execMemwBase (off : BitVec 19) (v : Byte) (s : State) : Result := .next ((baseWrite (baseAddr off) v s).noRet)

/-- MEMW.EXT, R135. -/
def execMemwExt (off : BitVec 19) (v : Byte) (s : State) : Result := .next ((extWrite (extAddr off) v s).noRet)

/-- PHYS_READ, R130. -/
def execPhysRead (a : Nat) (s : State) : Result := .next (s.setRet (physByte s a))

/-- PHYS_WRITE, R133. -/
def execPhysWrite (a : Nat) (v : Byte) (s : State) : Result := .next ((physWrite a v s).noRet)

/-- VIRT_READ, R136. -/
def execVirtRead (va : VirtAddr) (quiet : Bool) (s : State) : Result := .next (virtRead va quiet s)

/-- VIRT_WRITE, R137. -/
def execVirtWrite (va : VirtAddr) (v : Byte) (s : State) : Result := .next ((virtWrite va v s).noRet)

/-- CPU_MEM_READ, R138. -/
def execCpuMemRead (va : VirtAddr) (m1 : Bool) (s : State) : Result := .next (cpuMemRead va m1 s)

/-- CPU_MEM_WRITE, R139: `VirtWrite(va, v)` and nothing more; the detector is not touched. -/
def execCpuMemWrite (va : VirtAddr) (v : Byte) (s : State) : Result := .next ((virtWrite va v s).noRet)

end Sys2Proof.Machine
end

