-- ==== Sys2Proof/Machine/Interrupt.lean ====
section
/-! DEFINITION. The meanings of the detector and interrupt-mediation operations (43_interrupt_mediation.md). -/

namespace Sys2Proof.Machine

/-- PFX_DD, R231 (log entry 13). -/
def execPfxDd (s : State) : Result := .next ((fetchObserve Config.pfxIx s).noRet)

/-- PFX_FD, R231. -/
def execPfxFd (s : State) : Result := .next ((fetchObserve Config.pfxIy s).noRet)

/-- PFX_CB, R231. -/
def execPfxCb (s : State) : Result := .next ((fetchObserve Config.pfxBit s).noRet)

/-- PFX_ED, R232; in `SawPrefixED` this byte falls under R235. -/
def execPfxEd (s : State) : Result := .next ((fetchObserve Config.pfxExt s).noRet)

/-- OPC_RETI, R234; in `Idle` this byte falls under R233. -/
def execOpcReti (s : State) : Result := .next ((fetchObserve Config.opcReti s).noRet)

/-- OTHER.IDLE, R233. -/
def execOtherIdle (b : Byte) (s : State) : Result := .next ((fetchObserve b s).noRet)

/-- OTHER.SAWED, R235. -/
def execOtherSawed (b : Byte) (s : State) : Result := .next ((fetchObserve b s).noRet)

/-- FETCH_OBSERVE, R230. -/
def execFetchObserve (b : Byte) (s : State) : Result := .next ((fetchObserve b s).noRet)

/-- NONFETCH, R237. -/
def execNonfetch (s : State) : Result := .next ((nonFetchObserve s).noRet)

/-- RETI_EVENT, R238. -/
def execRetiEvent (s : State) : Result := .next ((retiEvent s).noRet)

/-- REPOLL, R239. -/
def execRepoll (s : State) : Result := .next ((repoll s).noRet)

/-- RECALC_REQ, R240. -/
def execRecalcReq (s : State) : Result := .next ((recalcRequest s).noRet)

/-- RECALC_SVC, R241. -/
def execRecalcSvc (iff1 iff2 : Bool) (s : State) : Result := .next ((recalcService iff1 iff2 s).noRet)

end Sys2Proof.Machine
end

