-- ==== Sys2Proof/Machine/Port.lean ====
section
/-! DEFINITION. The meanings of the port operations (41_io_port_decoder.md). -/

namespace Sys2Proof.Machine

/-- IN.CLAIMED, R153. -/
def execInClaimed (addr : PortAddr) (s : State) : Result := .next (claimedRead addr s)

/-- OUT.CLAIMED, R154. -/
def execOutClaimed (addr : PortAddr) (v : Byte) (s : State) : Result := .next ((claimedWrite addr v s).noRet)

/-- IN.IDE, R156. -/
def execInIde (sub : BitVec 3) (s : State) : Result := .next (ideRead sub s)

/-- OUT.IDE, R157. -/
def execOutIde (sub : BitVec 3) (v : Byte) (s : State) : Result := .next ((ideWrite sub v s).noRet)

/-- IN.FDC, R159. -/
def execInFdc (sub : BitVec 3) (s : State) : Result := .next (fdcRead sub s)

/-- OUT.FDC, R160. -/
def execOutFdc (sub : BitVec 3) (v : Byte) (s : State) : Result := .next ((fdcWrite sub v s).noRet)

/-- IN.LED, R165. -/
def execInLed (s : State) : Result := .next (outputPortRead s)

/-- OUT.LED, R166. -/
def execOutLed (v : Byte) (s : State) : Result := .next ((ledWrite v s).noRet)

/-- IN.TRACE_LO, R167. -/
def execInTraceLo (s : State) : Result := .next (outputPortRead s)

/-- OUT.TRACE_LO, R168. -/
def execOutTraceLo (v : Byte) (s : State) : Result := .next ((traceLoWrite v s).noRet)

/-- IN.TRACE_HI, R169. -/
def execInTraceHi (s : State) : Result := .next (outputPortRead s)

/-- OUT.TRACE_HI, R170. -/
def execOutTraceHi (v : Byte) (s : State) : Result := .next ((traceHiWrite v s).noRet)

/-- IN.UNMAPPED, R171. -/
def execInUnmapped (p : Byte) (s : State) : Result := .next (unmappedRead p s)

/-- OUT.UNMAPPED, R172. -/
def execOutUnmapped (p : Byte) (v : Byte) (s : State) : Result := .next ((unmappedWrite p v s).noRet)

/-- PORT_READ, R150. -/
def execPortRead (addr : PortAddr) (s : State) : Result := .next (portRead addr s)

/-- PORT_WRITE, R151. -/
def execPortWrite (addr : PortAddr) (v : Byte) (s : State) : Result := .next ((portWrite addr v s).noRet)

end Sys2Proof.Machine
end

