-- ==== Sys2Proof/Machine/Ppi.lean ====
section
/-! DEFINITION. The meanings of the parallel-interface operations (42_ppi.md). -/

namespace Sys2Proof.Machine

/-- IN.PPI_A, R190: the don't-care address bit has no effect (R94). -/
def execInPpiA (_x : BitVec 1) (s : State) : Result := .next (ppiRead 0 s)

/-- IN.PPI_B, R191. -/
def execInPpiB (_x : BitVec 1) (s : State) : Result := .next (ppiRead 1 s)

/-- IN.PPI_C, R192. -/
def execInPpiC (_x : BitVec 1) (s : State) : Result := .next (ppiRead 2 s)

/-- IN.PPI_CTRL, R193. -/
def execInPpiCtrl (_x : BitVec 1) (s : State) : Result := .next (ppiRead 3 s)

/-- OUT.PPI_A, R195. -/
def execOutPpiA (_x : BitVec 1) (v : Byte) (s : State) : Result := .next ((ppiWrite 0 v s).noRet)

/-- OUT.PPI_B, R196. -/
def execOutPpiB (_x : BitVec 1) (v : Byte) (s : State) : Result := .next ((ppiWrite 1 v s).noRet)

/-- OUT.PPI_C, R197. -/
def execOutPpiC (_x : BitVec 1) (v : Byte) (s : State) : Result := .next ((ppiWrite 2 v s).noRet)

/-- OUT.PPI_CTRL, R198. -/
def execOutPpiCtrl (_x : BitVec 1) (v : Byte) (s : State) : Result := .next ((ppiWrite 3 v s).noRet)

/-- MODESET, R198, R199: the mode set and the recalculation that ends every PPI write (log entry 12). -/
def execModeset (v : Byte) (s : State) : Result := .next ((csRecalc (modeSet v s)).noRet)

/-- BSR, R198, R200: the bit set/reset command of the byte `0 ign n b`, and the recalculation that ends every PPI write
(log entry 12). -/
def execBsr (ign : BitVec 3) (n : BitVec 3) (b : Bool) (s : State) : Result := .next ((csRecalc (bitSetReset ((0b0#1) ++ ign ++ n ++ BitVec.ofBool b) s)).noRet)

/-- CS_RECALC, R202. -/
def execCsRecalc (s : State) : Result := .next ((csRecalc s).noRet)

end Sys2Proof.Machine
end

