-- ==== Sys2Proof/Machine/Spi.lean ====
section
/-! DEFINITION. The meanings of the SPI bridge operations (44_spi_bridge.md). -/

namespace Sys2Proof.Machine

/-- REV8, R260. -/
def execRev8 (b : Byte) (s : State) : Result := .next (s.setRet (bitReverse b))

/-- SPI_EXCHANGE, R261. -/
def execSpiExchange (b : Byte) (s : State) : Result := .next (spiExchange b s)

end Sys2Proof.Machine
end

