-- ==== Sys2Proof/Machine/Startup.lean ====
section
/-! DEFINITION. The meanings of the reset operation (70_reset_and_hazards.md). -/

namespace Sys2Proof.Machine

/-- RESET, R300. -/
def execReset (p : ResetParams) (s : State) : Result := .next ((resetWith p s).noRet)

end Sys2Proof.Machine
end

