-- ==== Sys2Proof/Machine/Dispatch.lean ====
section
/-! DEFINITION. One arm for each operation, each one direct call of its meaning. -/

namespace Sys2Proof.Machine

/-- What an operation does (00_scope.md R2). -/
def exec (i : Instr) (s : State) : Host.Outcome State Fault Refusal :=
  match i with
  | .inClaimed addr => Sys2Proof.Machine.execInClaimed addr s
  | .outClaimed addr v => Sys2Proof.Machine.execOutClaimed addr v s
  | .inIde sub => Sys2Proof.Machine.execInIde sub s
  | .outIde sub v => Sys2Proof.Machine.execOutIde sub v s
  | .inFdc sub => Sys2Proof.Machine.execInFdc sub s
  | .outFdc sub v => Sys2Proof.Machine.execOutFdc sub v s
  | .inPpiA x => Sys2Proof.Machine.execInPpiA x s
  | .inPpiB x => Sys2Proof.Machine.execInPpiB x s
  | .inPpiC x => Sys2Proof.Machine.execInPpiC x s
  | .inPpiCtrl x => Sys2Proof.Machine.execInPpiCtrl x s
  | .outPpiA x v => Sys2Proof.Machine.execOutPpiA x v s
  | .outPpiB x v => Sys2Proof.Machine.execOutPpiB x v s
  | .outPpiC x v => Sys2Proof.Machine.execOutPpiC x v s
  | .outPpiCtrl x v => Sys2Proof.Machine.execOutPpiCtrl x v s
  | .inLed => Sys2Proof.Machine.execInLed s
  | .outLed v => Sys2Proof.Machine.execOutLed v s
  | .inTraceLo => Sys2Proof.Machine.execInTraceLo s
  | .outTraceLo v => Sys2Proof.Machine.execOutTraceLo v s
  | .inTraceHi => Sys2Proof.Machine.execInTraceHi s
  | .outTraceHi v => Sys2Proof.Machine.execOutTraceHi v s
  | .inUnmapped p => Sys2Proof.Machine.execInUnmapped p s
  | .outUnmapped p v => Sys2Proof.Machine.execOutUnmapped p v s
  | .modeset v => Sys2Proof.Machine.execModeset v s
  | .bsr ign n b => Sys2Proof.Machine.execBsr ign n b s
  | .pfxDd => Sys2Proof.Machine.execPfxDd s
  | .pfxFd => Sys2Proof.Machine.execPfxFd s
  | .pfxCb => Sys2Proof.Machine.execPfxCb s
  | .pfxEd => Sys2Proof.Machine.execPfxEd s
  | .opcReti => Sys2Proof.Machine.execOpcReti s
  | .otherIdle b => Sys2Proof.Machine.execOtherIdle b s
  | .otherSawed b => Sys2Proof.Machine.execOtherSawed b s
  | .memrBase off => Sys2Proof.Machine.execMemrBase off s
  | .memrExt off => Sys2Proof.Machine.execMemrExt off s
  | .memwBase off v => Sys2Proof.Machine.execMemwBase off v s
  | .memwExt off v => Sys2Proof.Machine.execMemwExt off v s
  | .physRead a => Sys2Proof.Machine.execPhysRead a s
  | .physWrite a v => Sys2Proof.Machine.execPhysWrite a v s
  | .virtRead va quiet => Sys2Proof.Machine.execVirtRead va quiet s
  | .virtWrite va v => Sys2Proof.Machine.execVirtWrite va v s
  | .cpuMemRead va m1 => Sys2Proof.Machine.execCpuMemRead va m1 s
  | .cpuMemWrite va v => Sys2Proof.Machine.execCpuMemWrite va v s
  | .portRead addr => Sys2Proof.Machine.execPortRead addr s
  | .portWrite addr v => Sys2Proof.Machine.execPortWrite addr v s
  | .csRecalc => Sys2Proof.Machine.execCsRecalc s
  | .fetchObserve b => Sys2Proof.Machine.execFetchObserve b s
  | .nonfetch => Sys2Proof.Machine.execNonfetch s
  | .retiEvent => Sys2Proof.Machine.execRetiEvent s
  | .repoll => Sys2Proof.Machine.execRepoll s
  | .recalcReq => Sys2Proof.Machine.execRecalcReq s
  | .recalcSvc iff1 iff2 => Sys2Proof.Machine.execRecalcSvc iff1 iff2 s
  | .rev8 b => Sys2Proof.Machine.execRev8 b s
  | .spiExchange b => Sys2Proof.Machine.execSpiExchange b s
  | .reset p => Sys2Proof.Machine.execReset p s

end Sys2Proof.Machine
end

