-- ==== Sys2Proof/Machine/Step.lean ====
section
/-! DEFINITION. One step: perform the oldest operation that an agent has asked for and whose turn it is. -/

namespace Sys2Proof.Machine

/-- One step. The block is reactive and never starts an operation (R7): with no request in turn it stays as it is. A request
that may not stand at this point of the order waits for its turn (R242, R76; log entry 18), and the oldest that does not wait
is performed. One that is no request is refused by name (log entry 2). -/
def step (s : State) : Host.Outcome State Fault Refusal :=
  match s.pending.dropWhile s.waits with
  | [] => .next s
  | q :: rest =>
    match decode s.ctx q.request with
    | .error e => .refused (.undecodable e)
    | .ok i => finished q i s (exec i (s.takeRequest (s.pending.takeWhile s.waits ++ rest)))

/-- `s` with the operation of a table word as the next request (log entry 3). -/
def State.withFetchWord (s : State) (nbits w : Nat) : State := placeRequest s (tableRequest nbits w)

end Sys2Proof.Machine
end

