-- ==== Sys2Proof/Safety.lean ====
section
/-! DEFINITION. What counts as a safe state and a safe run, and the frames that the statements speak of. -/

namespace Sys2Proof.Machine

/-- The block's invariant: the chip-select cache holds the select of port C (R31), and the sparse arrays keep their
canonical form inside the sizes of RAM and ROM (R33, R34; log entry 6). -/
structure Inv (s : State) : Prop where
  csCached : s.cs = selectOf s.portC
  ramWf    : Memory.wf s.ram = true
  romWf    : Memory.wf s.rom = true
  ramBelow : Memory.below (2 ^ 20) s.ram = true
  romBelow : Memory.below (2 ^ 19) s.rom = true

/-- A safe step completes: no operation of the block faults (R270). -/
def SafeStep (s : State) : Prop := ∃ t, step s = .next t

/-- Every field of the spec's record `S` (10_state.md section 1) is the same in both states. -/
structure SameBlock (s t : State) : Prop where
  portA   : t.portA = s.portA
  portB   : t.portB = s.portB
  portC   : t.portC = s.portC
  ctrl    : t.ctrl = s.ctrl
  cs      : t.cs = s.cs
  liveIrq : t.liveIrq = s.liveIrq
  recalc  : t.recalc = s.recalc
  det     : t.det = s.det
  trace   : t.trace = s.trace
  led     : t.led = s.led
  ram     : t.ram = s.ram
  rom     : t.rom = s.rom

/-- The fields that are neither `S` nor written by an operation's own effect are the same in both states: the run
parameters, the requests still waiting, the start mark, and where the CPU stands. -/
structure SameRun (s t : State) : Prop where
  params  : t.params = s.params
  pending : t.pending = s.pending
  started : t.started = s.started
  cpuAt   : t.cpuAt = s.cpuAt

/-- Whether a write to a physical address stores a byte (R134, R135): the extended half while `BCR[2]` is set, the base
half while `BCR[3]` is clear. -/
def State.storesTo (s : State) (a : Nat) : Bool := if a.testBit 19 then s.extEnabled else !s.romEnabled

/-- The operations that read memory, and the physical address, of any width, that each reads (R130 to R132, R136, R138). -/
def ReadsMemory (i : Instr) (s : State) (a : Nat) : Prop :=
  (∃ off, i = .memrBase off ∧ a = off.toNat) ∨ (∃ off, i = .memrExt off ∧ a = 2 ^ 19 + off.toNat) ∨
  i = .physRead a ∨
  ∃ va, a = s.translateAnswer va ∧ ((∃ quiet, i = .virtRead va quiet) ∨ ∃ m1, i = .cpuMemRead va m1)

/-- The operations that write a byte of memory, and the physical address, of any width, that each writes (R133 to R135,
R137, R139). -/
def WritesMemory (i : Instr) (s : State) (a : Nat) (v : Byte) : Prop :=
  (∃ off, i = .memwBase off v ∧ a = off.toNat) ∨ (∃ off, i = .memwExt off v ∧ a = 2 ^ 19 + off.toNat) ∨
  i = .physWrite a v ∨
  ∃ va, a = s.translateAnswer va ∧ (i = .virtWrite va v ∨ i = .cpuMemWrite va v)

/-- The operations that delegate a write to the controller or the floppy controller, when that collaborator calls
`RecalcRequest` inside it (R154, R160, R240; log entry 5): the two rows, and a port write of a claimed address or of the
floppy window. -/
def RequestsInside (i : Instr) (s : State) : Prop :=
  (∃ addr v, i = .outClaimed addr v ∧ s.ctlWriteRequests addr v = true) ∨
  (∃ sub v, i = .outFdc sub v ∧ s.fdcWriteRequests sub v = true) ∨
  ∃ addr v, i = .portWrite addr v ∧
    ((s.claimsAnswer addr = true ∧ (s.call (.claims addr)).ctlWriteRequests addr v = true) ∨
      (s.claimsAnswer addr = false ∧ ∃ sub, portDecode s.params.ideConfigured (addr.extractLsb' 0 8) = .fdc sub ∧
        (s.call (.claims addr)).fdcWriteRequests sub v = true))

/-- The operations that fire the RETI event at a state: the event itself, and every way in which the detector sees the
byte 0x4D while it is in `SawPrefixED` (R234, R236). -/
def FiresReti (i : Instr) (s : State) : Prop :=
  i = .retiEvent ∨
  (s.det = .sawPrefixED ∧
    (i = .opcReti ∨ i = .fetchObserve 0x4D ∨ i = .otherIdle 0x4D ∨ i = .otherSawed 0x4D ∨
      ∃ va, i = .cpuMemRead va true ∧ virtByte s va = 0x4D))

/-- An endless run: `σ n` is what the environment asks at point `n`, and the step performs it, so that it does not wait, and
leads from `ρ n` to `ρ (n + 1)` (R70, R242). -/
structure Run (σ : Nat → Asked) (ρ : Nat → State) : Prop where
  inTurn : ∀ n, (ρ n).waits (σ n) = false
  steps  : ∀ n, step { ρ n with pending := [σ n] } = .next (ρ (n + 1))

/-- Point `n` of a run is a service of the recalculation flag. -/
def ServiceAt (σ : Nat → Asked) (ρ : Nat → State) (n : Nat) : Prop :=
  ∃ iff1 iff2, decode (ρ n).ctx (σ n).request = .ok (.recalcSvc iff1 iff2)

/-- Point `n` of a run is an operation of the CPU that ends a CPU instruction. -/
def InstructionEndsAt (σ : Nat → Asked) (ρ : Nat → State) (n : Nat) : Prop :=
  ∃ i, decode (ρ n).ctx (σ n).request = .ok i ∧ askedBy (σ n).dma i = .cpu ∧ (ρ (n + 1)).cpuAt = .boundary

/-- The two fairness assumptions that the block takes from the scheduler (R242, R321, D15): CPU instruction steps keep
coming, each to its end, and so do services of the recalculation flag. Both of the source's schedules have them. -/
structure Fair (σ : Nat → Asked) (ρ : Nat → State) : Prop where
  instructions : ∀ n, ∃ m, n ≤ m ∧ InstructionEndsAt σ ρ m
  services     : ∀ n, ∃ m, n ≤ m ∧ ServiceAt σ ρ m

/-- The history after a recalculation that finds the select `new` where the cache held `old` (R202): one event at most. -/
def afterSelect (old new : BitVec 3) (h : List ExtCall) : List ExtCall :=
  if old ≠ 0 ∧ new = 0 then .csLower :: h
  else if old = 0 ∧ new ≠ 0 then .csRaise :: h
  else h

end Sys2Proof.Machine
end

