-- ==== Sys2Proof/Certificates/Slice0/Obligations.lean ====
section
/-! DEFINITION. The statements about the block, for the provers. Each docstring names the rules it comes from. A
diagnostic is a side channel that no rule reads (R271), so a statement about a traced operation leaves the diagnostics
list open and fixes everything else. -/

open Sys2Proof Sys2Proof.Machine

/-! ## The machine -/

/-- A step performs the oldest request that does not wait (log entry 1): it decodes to an operation in turn (log entry 18), and
the step is exec of that operation at the state with the request handed over and every other kept, the mark that an
operation has been performed, and where the CPU then stands. -/
def Obligations.StepPerformsTheOldestRequest : Prop :=
  ∀ (s : State) (waiting : List Asked) (q : Asked) (rest : List Asked) (i : Instr),
    s.pending = waiting ++ q :: rest → (∀ w ∈ waiting, s.waits w = true) →
    decode ⟨s.params.ideConfigured, s.det, s.started⟩ q.request = .ok i → s.inTurn q.dma i = true →
    ∃ t, exec i { s with pending := waiting ++ rest } = .next t ∧
      step s = .next { t with started := true, cpuAt := cpuAfter q i s t }

/-- What waits, and what a step does when nothing is in turn. A request waits exactly where it is a RECALC_SVC and the CPU is
inside an instruction (R242), or a physical access of the DMA engine there or while `DMA_ACTIVE = false` (R76; D23; log
entries 17, 18). With no request, or with only such, the block does nothing (R7: it never starts an operation). A request that
the decoder rejects, when none before it is in turn, stops the machine under the rejection's name (log entry 2). -/
def Obligations.StepWithoutAnOperation : Prop :=
  (∀ (s : State) (q : Asked), s.waits q = true ↔ ∃ i, decode s.ctx q.request = .ok i ∧
    (((∃ iff1 iff2, i = .recalcSvc iff1 iff2) ∧ s.cpuAt ≠ .boundary) ∨
      (q.dma = true ∧ ((∃ a, i = .physRead a) ∨ (∃ a v, i = .physWrite a v) ∨ (∃ off, i = .memrBase off) ∨
          (∃ off, i = .memrExt off) ∨ (∃ off v, i = .memwBase off v) ∨ ∃ off v, i = .memwExt off v) ∧
        (s.params.dmaActive = false ∨ s.cpuAt ≠ .boundary)))) ∧
  (∀ s : State, (∀ q ∈ s.pending, s.waits q = true) → step s = .next s) ∧
  (∀ (s : State) (waiting : List Asked) (q : Asked) (rest : List Asked) (e : DecodeError),
    s.pending = waiting ++ q :: rest → (∀ w ∈ waiting, s.waits w = true) →
    decode ⟨s.params.ideConfigured, s.det, s.started⟩ q.request = .error e → step s = .refused (.undecodable e))

/-- Every operation completes, on every operand and in every state (R270; the spec's decision D20). -/
def Obligations.EveryOperationCompletes : Prop :=
  ∀ (i : Instr) (s : State), ∃ t, exec i s = .next t

/-- Requests that encode well-formed operations never stop the machine, whatever agents make them and wherever the CPU stands
(R270, R101; the request form is log entry 2); and every operation but RECALC_SVC, when its request is the oldest and not the
DMA engine's, is performed at once, as RECALC_SVC is at an instruction boundary (R7, R242; log entry 18). -/
def Obligations.AWellFormedRequestStepsOn : Prop :=
  (∀ s : State, (∀ q ∈ s.pending, ∃ i, WellFormed s.ctx i ∧ q.request = encode i) → SafeStep s) ∧
  (∀ (s : State) (i : Instr) (ends : Bool) (rest : List Asked), WellFormed s.ctx i →
    s.pending = ⟨encode i, ends, false⟩ :: rest →
    ((∃ iff1 iff2, i = .recalcSvc iff1 iff2) → s.cpuAt = .boundary) →
    ∃ t, exec i { s with pending := rest } = .next t ∧
      step s = .next { t with started := true, cpuAt := cpuAfter ⟨encode i, ends, false⟩ i s t })

/-- Decoding what the encoder writes gives the operation back, with every operand at every value (R91, R93, R95, R96,
R98; the request form is log entry 2). -/
def Obligations.DecodeOfEncodeIsTheOperation : Prop :=
  ∀ (c : DecodeCtx) (i : Instr), WellFormed c i → decode c (encode i) = .ok i

/-- Encoding what the decoder reads gives the request back: no bit of a request is dropped. -/
def Obligations.EncodeOfDecodeIsTheRequest : Prop :=
  ∀ (c : DecodeCtx) (r : Request) (i : Instr), decode c r = .ok i → encode i = r

/-- What the decoder reads meets its row's bits and condition (R93, R98). -/
def Obligations.DecodedOperationsAreWellFormed : Prop :=
  ∀ (c : DecodeCtx) (r : Request) (i : Instr), decode c r = .ok i → WellFormed c i

/-- A few words written out from the tables of R93, R96, R98 and R91 decode to their rows. The requests that carry them,
and the low byte first in the three bytes of the last, are the model's choice (log entry 2); the alias 0x7C is the spec's
decision D3, and the byte 0x4D its decision D11 (log entry 11). -/
def Obligations.WordsOfTheTablesDecode : Prop :=
  decode ⟨true, .idle, false⟩ ⟨.port8 .read, [0b00010111#8]⟩ = .ok (.inIde 7) ∧
  decode ⟨false, .idle, false⟩ ⟨.port8 .read, [0b00010111#8]⟩ = .ok (.inUnmapped 0x17) ∧
  decode ⟨false, .idle, false⟩ ⟨.port8 .write, [0b01111100#8, 0x04]⟩ = .ok (.outPpiA 1 0x04) ∧
  decode ⟨false, .idle, false⟩ ⟨.ppicw, [0b00001001#8]⟩ = .ok (.bsr 0 4 true) ∧
  decode ⟨false, .idle, false⟩ ⟨.ppicw, [0b10011011#8]⟩ = .ok (.modeset 0x9B) ∧
  decode ⟨false, .sawPrefixED, false⟩ ⟨.fetch8, [0b01001101#8]⟩ = .ok .opcReti ∧
  decode ⟨false, .idle, false⟩ ⟨.fetch8, [0b01001101#8]⟩ = .ok (.otherIdle 0x4D) ∧
  decode ⟨false, .idle, false⟩ ⟨.pa20 .read, [0x34#8, 0x12#8, 0b00001000#8]⟩ = .ok (.memrExt 0x01234)

/-- The range matches of R152 select what the match and mask of R93's rows select, in that priority (the aliases of the
PPI window: D3). -/
def Obligations.PortMapSelectsByMatchAndMask : Prop :=
  ∀ (ide : Bool) (p : Byte),
    portDecode ide p =
      if ide = true ∧ p &&& 0xF8 = 0x10 then .ide (p.extractLsb' 0 3)
      else if p &&& 0xF8 = 0x70 then .fdc (p.extractLsb' 0 3)
      else if p &&& 0xF8 = 0x78 then .ppi (p.extractLsb' 0 2)
      else if p = 0x0D then .led
      else if p = 0xFD then .traceLo
      else if p = 0xFE then .traceHi
      else .unmapped

/-! ## Invariants and reset -/

/-- The state after reset meets the invariant (R31 at reset; log entry 8 for the value of port C). -/
def Obligations.ResetStateMeetsInv : Prop := Inv State.reset

/-- Every step keeps the invariant: the chip-select cache is the select of port C (R31), and the arrays keep their
canonical form and sizes (R33, R34; log entry 6). -/
def Obligations.StepKeepsInv : Prop :=
  ∀ s t : State, Inv s → step s = .next t → Inv t

/-- What reset leaves: the detector in `Idle`, no interrupt live, no re-poll owed, the cache at the select, the ROM
enabled and the extended half disabled (R38, R304: the spec's decision D16; the latch values are log entry 8). -/
def Obligations.ResetStateHoldsItsValues : Prop :=
  State.reset.det = .idle ∧ State.reset.liveIrq = false ∧ State.reset.recalc = false ∧
  State.reset.cs = State.reset.portC.extractLsb' 0 3 ∧
  State.reset.portA.getLsbD 3 = true ∧ State.reset.portA.getLsbD 2 = false ∧
  State.reset.history = [] ∧
  (∀ x, State.reset.ramAt x = Config.ramInit x) ∧ (∀ x, State.reset.romAt x = Config.romImage x)

/-- `Reset` loads its parameters, clears the flags and the detector, sets the cache to the select, emits no event and
calls no collaborator (R300, R301; decisions D16 and D17; an image byte that is not listed is the free value of log
entries 6 and 7). -/
def Obligations.ResetLoadsItsParameters : Prop :=
  ∀ (p : ResetParams) (s : State), ∃ t, exec (.reset p) s = .next t ∧
    t = { s with
      portA := p.portA, portB := p.portB, portC := p.portC, ctrl := p.ctrl, cs := p.portC.extractLsb' 0 3
      liveIrq := false, recalc := false, det := .idle, trace := p.trace, led := p.led
      ram := t.ram, rom := t.rom, ret := none } ∧
    (∀ (i : BitVec 19) v xs ys, p.image = xs ++ .rom i v :: ys → (∀ w, .rom i w ∉ ys) → t.romAt i.toNat = v) ∧
    (∀ (i : BitVec 20) v xs ys, p.image = xs ++ .ram i v :: ys → (∀ w, .ram i w ∉ ys) → t.ramAt i.toNat = v) ∧
    (∀ x, (∀ (i : BitVec 19) v, .rom i v ∈ p.image → i.toNat ≠ x) → t.romAt x = Config.romImage x) ∧
    (∀ x, (∀ (i : BitVec 20) v, .ram i v ∈ p.image → i.toNat ≠ x) → t.ramAt x = Config.ramInit x)

/-- There is one reset, at the start (R302): once an operation has been performed a RESET request is refused, and the
mark is never lost (log entry 14). -/
def Obligations.ResetIsRefusedOnceStarted : Prop :=
  (∀ (s : State) (bytes : List Byte) (ends dma : Bool) (rest : List Asked), s.started = true →
    s.pending = ⟨⟨.event .reset, bytes⟩, ends, dma⟩ :: rest → ∃ e, step s = .refused (.undecodable e)) ∧
  (∀ (s t : State), step s = .next t → (∃ q ∈ s.pending, s.waits q = false) → t.started = true) ∧
  (∀ (s t : State), step s = .next t → s.started = true → t.started = true)

/-- The run parameters are fixed for a run (R36). -/
def Obligations.StepKeepsTheRunParameters : Prop :=
  ∀ s t : State, step s = .next t → t.params = s.params

/-- ROM is never written after it is loaded (R34, R69): no operation but RESET changes a byte of it. -/
def Obligations.OnlyResetWritesRom : Prop :=
  ∀ (i : Instr) (s t : State), exec i s = .next t → (∀ p, i ≠ .reset p) → t.rom = s.rom ∧ ∀ x, t.romAt x = s.romAt x

/-- After reset a byte of RAM changes only by the write operations (R33, R173): every other operation leaves every byte
as it was. -/
def Obligations.OnlyWriteOperationsChangeRam : Prop :=
  ∀ (i : Instr) (s t : State), exec i s = .next t → (∀ p, i ≠ .reset p) →
    (∀ off v, i ≠ .memwBase off v ∧ i ≠ .memwExt off v) → (∀ a v, i ≠ .physWrite a v) →
    (∀ va v, i ≠ .virtWrite va v ∧ i ≠ .cpuMemWrite va v) →
    t.ram = s.ram ∧ ∀ x, t.ramAt x = s.ramAt x

/-! ## Memory operations -/

/-- The base half reads ROM while `BCR[3]` is set, else RAM, at the offset itself; the extended half reads RAM at the
whole 20-bit address while `BCR[2]` is set, else open bus (R131, R132, D18). -/
def Obligations.HalfReadsFollowTheirEnableBit : Prop :=
  ∀ (off : BitVec 19) (s : State),
    exec (.memrBase off) s =
      .next { s with ret := some (if s.portA.getLsbD 3 then s.romAt off.toNat else s.ramAt off.toNat) } ∧
    exec (.memrExt off) s =
      .next { s with ret := some (if s.portA.getLsbD 2 then s.ramAt (2 ^ 19 + off.toNat) else 0xFF) }

/-- A base-half write stores one byte of RAM while `BCR[3]` is clear, and while it is set stores nothing and reports
`RomWrite`; an extended-half write stores one byte while `BCR[2]` is set, and while it is clear stores nothing (R134,
R135, D18; that the optional report of the latter is made is log entry 16). -/
def Obligations.HalfWritesStoreOrDiscard : Prop :=
  ∀ (off : BitVec 19) (v : Byte) (s : State),
    (∃ t, exec (.memwBase off v) s = .next t ∧ t = { s with ram := t.ram, diags := t.diags, ret := none } ∧
      (∀ x, t.ramAt x = if x = off.toNat ∧ s.portA.getLsbD 3 = false then v else s.ramAt x) ∧
      t.diags = if s.portA.getLsbD 3 then .romWrite ((0b0#1) ++ off) v :: s.diags else s.diags) ∧
    (∃ t, exec (.memwExt off v) s = .next t ∧ t = { s with ram := t.ram, diags := t.diags, ret := none } ∧
      (∀ x, t.ramAt x = if x = 2 ^ 19 + off.toNat ∧ s.portA.getLsbD 2 = true then v else s.ramAt x) ∧
      t.diags = if s.portA.getLsbD 2 then s.diags else .extWriteDisabled ((0b1#1) ++ off) v :: s.diags)

/-- A physical read masks its address to 20 bits and reads the half that bit 19 selects (R130 to R132, D18). -/
def Obligations.PhysReadMasksAndDecodes : Prop :=
  ∀ (a : Nat) (s : State),
    exec (.physRead a) s = .next { s with ret := some (
      if a.testBit 19 then (if s.portA.getLsbD 2 then s.ramAt (a % 2 ^ 20) else 0xFF)
      else (if s.portA.getLsbD 3 then s.romAt (a % 2 ^ 20) else s.ramAt (a % 2 ^ 20))) }

/-- A physical write masks its address and stores exactly that byte of RAM, or nothing (R133 to R135, D18). -/
def Obligations.PhysWriteStoresOneByteOrNone : Prop :=
  ∀ (a : Nat) (v : Byte) (s : State), ∃ t, exec (.physWrite a v) s = .next t ∧
    t = { s with ram := t.ram, diags := t.diags, ret := none } ∧
    ∀ x, t.ramAt x =
      if x = a % 2 ^ 20 ∧ (if a.testBit 19 then s.portA.getLsbD 2 else !s.portA.getLsbD 3) = true then v else s.ramAt x

/-- Reading back after a write: the written byte where it was stored, 0xFF in the disabled extended half, the ROM byte
in the base half under ROM; every other address reads as before (R141(a) to (c), S1; D18). -/
def Obligations.ReadBackAfterAWrite : Prop :=
  ∀ (a : Nat) (v : Byte) (s : State), ∃ t u, exec (.physWrite a v) s = .next t ∧ exec (.physRead a) t = .next u ∧
    u.ret = some (
      if a.testBit 19 then (if s.portA.getLsbD 2 then v else 0xFF)
      else (if s.portA.getLsbD 3 then s.romAt (a % 2 ^ 20) else v)) ∧
    ∀ b, b % 2 ^ 20 ≠ a % 2 ^ 20 → ∃ x y, exec (.physRead b) s = .next x ∧ exec (.physRead b) t = .next y ∧ y.ret = x.ret

/-- A virtual read asks for the translation, masks it and returns the physical byte; it writes no state of the block,
and a quiet one reports nothing (R136, R68, D19). -/
def Obligations.VirtReadReturnsTheTranslatedByte : Prop :=
  ∀ (va : VirtAddr) (quiet : Bool) (s : State), ∃ b d,
    exec (.physRead (s.translateAnswer va)) s = .next { s with ret := some b } ∧
    exec (.virtRead va quiet) s = .next { s with
      ret := some b, history := .translate va :: s.history
      answers := { s.answers with translate := s.answers.translate.tail }, diags := d } ∧
    (quiet = true → d = s.diags)

/-- A virtual write, and a CPU memory write, ask for the translation and write at the masked answer: exactly that byte
of RAM changes, or none, and the detector is not touched (R137, R139, R68; D18). -/
def Obligations.VirtAndCpuWritesStoreAtTheTranslation : Prop :=
  ∀ (va : VirtAddr) (v : Byte) (s : State) (i : Instr), i = .virtWrite va v ∨ i = .cpuMemWrite va v →
    ∃ t, exec i s = .next t ∧
      t = { s with
        ram := t.ram, diags := t.diags, ret := none, history := .translate va :: s.history
        answers := { s.answers with translate := s.answers.translate.tail } } ∧
      ∀ x, t.ramAt x =
        if x = s.translateAnswer va % 2 ^ 20 ∧ s.storesTo (s.translateAnswer va) = true then v else s.ramAt x

/-- A write of port A decides the very next memory access, a read or a write of any kind, the opcode fetch among them
(R74, R140, R195, R310): the access is decoded under bits 3 and 2 of the byte written. That port A is the bank register is
D2, that the store happens whatever the direction D8, and the array indices D18 (log entry 20). -/
def Obligations.BankWriteSwitchesTheNextAccess : Prop :=
  ∀ (x : BitVec 1) (v : Byte) (s : State), ∃ t, exec (.outPpiA x v) s = .next t ∧
    (∀ (i : Instr) (a : Nat), ReadsMemory i t a → ∃ u, exec i t = .next u ∧ u.ret = some (
      if a.testBit 19 then (if v.getLsbD 2 then s.ramAt (a % 2 ^ 20) else 0xFF)
      else (if v.getLsbD 3 then s.romAt (a % 2 ^ 20) else s.ramAt (a % 2 ^ 20)))) ∧
    (∀ (i : Instr) (a : Nat) (w : Byte), WritesMemory i t a w → ∃ u, exec i t = .next u ∧
      ∀ y, u.ramAt y =
        if y = a % 2 ^ 20 ∧ (if a.testBit 19 then v.getLsbD 2 else !v.getLsbD 3) = true then w else s.ramAt y)

/-! ## The detector and the interrupt flags -/

/-- A CPU opcode fetch returns the byte unchanged and steps the detector on it; on 0x4D in `SawPrefixED` the RETI event
clears `S.liveIrq` and polls, and the poll's answer sets it (R138, R236, R238, R239; byte values of D11, what sets the flag
D14). -/
def Obligations.CpuFetchStepsTheDetector : Prop :=
  ∀ (va : VirtAddr) (s : State), ∃ t, exec (.cpuMemRead va true) s = .next t ∧
    t.ret = some (virtByte s va) ∧
    t.det = (if s.det = .idle ∧ virtByte s va = 0xED then .sawPrefixED else .idle) ∧
    (if s.det = .sawPrefixED ∧ virtByte s va = 0x4D then
      t.liveIrq = (s.call (.translate va)).pollAnswer ∧ t.history = .poll :: .translate va :: s.history ∧
      t.answers = { s.answers with translate := s.answers.translate.tail, poll := s.answers.poll.tail }
     else t.liveIrq = s.liveIrq ∧ t.history = .translate va :: s.history ∧
      t.answers = { s.answers with translate := s.answers.translate.tail }) ∧
    t = { s with
      ret := t.ret, det := t.det, liveIrq := t.liveIrq, history := t.history, answers := t.answers, diags := t.diags }

/-- A CPU read that is not an opcode fetch returns the byte, never fires the RETI event, and leaves the detector in
`Idle` under the policy `idle`, as it was under `keep`; the operation NONFETCH is its detector half (R138, R237, R66;
D12). -/
def Obligations.CpuDataReadNeverFires : Prop :=
  ∀ (va : VirtAddr) (s : State),
    (∃ d, exec (.cpuMemRead va false) s = .next { s with
      ret := some (virtByte s va)
      det := if s.params.detOnNonfetch = .idle then .idle else s.det
      history := .translate va :: s.history
      answers := { s.answers with translate := s.answers.translate.tail }, diags := d }) ∧
    exec .nonfetch s = .next { s with det := (if s.params.detOnNonfetch = .idle then .idle else s.det), ret := none }

/-- The bytes 0xED, 0x4D as two consecutive opcode fetches from `Idle` fire the RETI event exactly once and end in
`Idle` (R234, R244(a), S3; byte values of D11, the poll's answer of D14). -/
def Obligations.ReturnSequenceFiresOnce : Prop :=
  ∀ (va wa : VirtAddr) (s t : State), s.det = .idle → virtByte s va = 0xED →
    exec (.cpuMemRead va true) s = .next t → virtByte t wa = 0x4D →
    ∃ u, exec (.cpuMemRead wa true) t = .next u ∧ u.det = .idle ∧
      u.liveIrq = (t.call (.translate wa)).pollAnswer ∧
      u.history = .poll :: .translate wa :: .translate va :: s.history ∧ u.recalc = s.recalc

/-- The same two bytes with the second read as an operand do not fire it (R237, R244(b), S3, conflict C2). -/
def Obligations.OperandReadOfTheSecondByteDoesNotFire : Prop :=
  ∀ (va wa : VirtAddr) (s t : State), s.det = .idle → virtByte s va = 0xED →
    exec (.cpuMemRead va true) s = .next t →
    ∃ u, exec (.cpuMemRead wa false) t = .next u ∧ u.ret = some (virtByte t wa) ∧ u.liveIrq = s.liveIrq ∧
      u.history = .translate wa :: .translate va :: s.history

/-- The detector's transition table on every state and byte (R230, R236; D11); where it fires, the RETI event clears
`S.liveIrq` and polls once, and the poll's answer sets it (R238, R239; D14). -/
def Obligations.DetectorFollowsItsTable : Prop :=
  ∀ (b : Byte) (s : State), ∃ t, exec (.fetchObserve b) s = .next t ∧
    t.det = (if s.det = .idle ∧ b = 0xED then .sawPrefixED else .idle) ∧
    (if s.det = .sawPrefixED ∧ b = 0x4D then
      t.liveIrq = s.pollAnswer ∧ t.history = .poll :: s.history ∧
      t.answers = { s.answers with poll := s.answers.poll.tail }
     else t.liveIrq = s.liveIrq ∧ t.history = s.history ∧ t.answers = s.answers ∧ t.diags = s.diags) ∧
    t = { s with
      ret := none, det := t.det, liveIrq := t.liveIrq, history := t.history, answers := t.answers, diags := t.diags }

/-- The fetch rows in `Idle` (R231, R232, R233; D11, D13): the other prefixes and every other byte leave `Idle`, 0xED
goes to `SawPrefixED`, nothing fires. The row OPC_RETI stands here outside its condition: that it is then the detector's
step on 0x4D is log entry 13. -/
def Obligations.FetchRowsFromIdle : Prop :=
  ∀ s : State, s.det = .idle →
    exec .pfxDd s = .next { s with ret := none } ∧ exec .pfxFd s = .next { s with ret := none } ∧
    exec .pfxCb s = .next { s with ret := none } ∧
    exec .pfxEd s = .next { s with det := .sawPrefixED, ret := none } ∧
    exec .opcReti s = .next { s with ret := none } ∧
    ∀ b : Byte, b ≠ 0xED → exec (.otherIdle b) s = .next { s with ret := none }

/-- The fetch rows in `SawPrefixED` (R234, R235; D11): 0x4D fires the RETI event, which leaves `S.liveIrq` at the poll's
answer (R238, R239; D14), and every other byte returns to `Idle` and fires nothing, a second 0xED included.
The prefix rows stand here outside their condition: that they are then the detector's step on their byte is log entry 13. -/
def Obligations.FetchRowsFromSawPrefixED : Prop :=
  ∀ s : State, s.det = .sawPrefixED →
    (∃ d, exec .opcReti s = .next { s with
      det := .idle, liveIrq := s.pollAnswer, history := .poll :: s.history
      answers := { s.answers with poll := s.answers.poll.tail }, diags := d, ret := none }) ∧
    (∀ b : Byte, b ≠ 0x4D → exec (.otherSawed b) s = .next { s with det := .idle, ret := none }) ∧
    (∀ i : Instr, i = .pfxDd ∨ i = .pfxFd ∨ i = .pfxCb ∨ i = .pfxEd → exec i s = .next { s with det := .idle, ret := none })

/-- The RETI event clears `S.liveIrq` and polls, and a re-poll sets `S.liveIrq` when the poll answers yes; neither reads
or writes `S.recalc` (R238, R239; what sets the flag is D14). -/
def Obligations.RetiEventAndRepoll : Prop :=
  ∀ s : State,
    (∃ d, exec .retiEvent s = .next { s with
      liveIrq := s.pollAnswer, history := .poll :: s.history
      answers := { s.answers with poll := s.answers.poll.tail }, diags := d, ret := none }) ∧
    exec .repoll s = .next { s with
      liveIrq := s.liveIrq || s.pollAnswer, history := .poll :: s.history
      answers := { s.answers with poll := s.answers.poll.tail }, ret := none }

/-- A recalculation request sets the flag; setting a set flag changes nothing (R240). -/
def Obligations.RecalcRequestSetsTheFlag : Prop :=
  ∀ s : State, exec .recalcReq s = .next { s with recalc := true, ret := none } ∧
    (s.recalc = true → exec .recalcReq s = .next { s with ret := none })

/-- The service of the recalculation flag, line by line of its table (R241; D15, D33; what the poll's answer sets
is D14). -/
def Obligations.RecalcServiceFollowsItsTable : Prop :=
  ∀ (iff1 iff2 : Bool) (s : State),
    (s.recalc = false → exec (.recalcSvc iff1 iff2) s = .next { s with ret := none }) ∧
    (s.recalc = true → s.liveIrq = true →
      exec (.recalcSvc iff1 iff2) s = .next { s with recalc := iff1 || iff2, ret := none }) ∧
    (s.recalc = true → s.liveIrq = false →
      exec (.recalcSvc iff1 iff2) s = .next { s with
        liveIrq := s.pollAnswer, recalc := iff1 || iff2, history := .poll :: s.history
        answers := { s.answers with poll := s.answers.poll.tail }, ret := none })

/-- `S.liveIrq` goes from 1 to 0 only by the RETI event, or by a RESET (R244(h); byte values of D11, log entry 11). -/
def Obligations.LiveIrqFallsOnlyByTheRetiEvent : Prop :=
  ∀ (i : Instr) (s t : State), exec i s = .next t → s.liveIrq = true → t.liveIrq = false →
    FiresReti i s ∨ ∃ p, i = .reset p

/-- `S.liveIrq` goes from 0 to 1 only by a poll, made by the RETI event, a re-poll or a service of the recalculation
flag (R244(h), R239; D11, log entry 11, and D14). -/
def Obligations.LiveIrqRisesOnlyByAPoll : Prop :=
  ∀ (i : Instr) (s t : State), exec i s = .next t → s.liveIrq = false → t.liveIrq = true →
    (FiresReti i s ∨ i = .repoll ∨ ∃ f g, i = .recalcSvc f g) ∧ ∃ h, t.history = .poll :: h

/-- While an interrupt is live the block polls no controller until the RETI event or an explicit re-poll (R278, R241):
it raises no second interrupt (that the event fires on 0x4D is D11, log entry 11). -/
def Obligations.NoPollWhileAnInterruptIsLive : Prop :=
  ∀ (i : Instr) (s t : State), exec i s = .next t → s.liveIrq = true → ¬ FiresReti i s → i ≠ .repoll →
    t.history.count .poll = s.history.count .poll

/-- `S.recalc` is set only by a request (R240, R244(i)): the operation RECALC_REQ, or a collaborator's request inside a
delegated write, which only a claimed write and a floppy write can hold (log entry 5). It is cleared only by a service with
both enables clear (R244(i)), or by a RESET. -/
def Obligations.RecalcFlagChangesOnlyByItsOperations : Prop :=
  ∀ (i : Instr) (s t : State), exec i s = .next t →
    (s.recalc = false → t.recalc = true → i = .recalcReq ∨ RequestsInside i s) ∧
    (s.recalc = true → t.recalc = false → i = .recalcSvc false false ∨ ∃ p, i = .reset p)

/-! ## The PPI -/

/-- A read of port A or B returns the latch while the port is an output and 0xFF while it is an input (R190, R191;
direction bits of D4), and changes nothing. -/
def Obligations.PortAAndBReadsFollowDirection : Prop :=
  ∀ (x : BitVec 1) (s : State),
    exec (.inPpiA x) s = .next { s with ret := some (if s.ctrl.getLsbD 4 then 0xFF else s.portA) } ∧
    exec (.inPpiB x) s = .next { s with ret := some (if s.ctrl.getLsbD 1 then 0xFF else s.portB) }

/-- A read of port C composes the two nibbles, each the latch's or all ones by its own direction bit (R192, D4): bit by
bit. -/
def Obligations.PortCReadComposesNibbles : Prop :=
  ∀ (x : BitVec 1) (s : State), ∃ b, exec (.inPpiC x) s = .next { s with ret := some b } ∧
    ∀ k, k < 8 → b.getLsbD k = ((if k < 4 then s.ctrl.getLsbD 0 else s.ctrl.getLsbD 3) || s.portC.getLsbD k)

/-- A read of the control address returns the whole control register and changes nothing else; a bit set/reset command,
a byte written there with bit 7 clear, is never read back (R193). -/
def Obligations.ControlReadReturnsTheWholeRegister : Prop :=
  ∀ (x : BitVec 1) (s : State), exec (.inPpiCtrl x) s = .next { s with ret := some s.ctrl } ∧
    ∀ v : Byte, v.getLsbD 7 = false → ∃ t, exec (.outPpiCtrl x v) s = .next t ∧
      exec (.inPpiCtrl x) t = .next { t with ret := some s.ctrl }

/-- A write of port A or B stores the byte whatever the direction; where the cache holds the select (R31) the
recalculation changes nothing and no event is sent (R195, R196, R203; D8). -/
def Obligations.PortAAndBWritesStore : Prop :=
  ∀ (x : BitVec 1) (v : Byte) (s : State), s.cs = s.portC.extractLsb' 0 3 →
    exec (.outPpiA x v) s = .next { s with portA := v, ret := none } ∧
    exec (.outPpiB x v) s = .next { s with portB := v, ret := none }

/-- A write of port C stores all eight bits, and the recalculation sends the event of the select's change, one at most,
and updates the cache; the operation CS_RECALC is that recalculation (R197, R202; D8). -/
def Obligations.PortCWriteStoresAndSelects : Prop :=
  ∀ (x : BitVec 1) (v : Byte) (s : State),
    exec (.outPpiC x v) s = .next { s with
      portC := v, cs := v.extractLsb' 0 3, history := afterSelect s.cs (v.extractLsb' 0 3) s.history, ret := none } ∧
    exec .csRecalc s = .next { s with
      cs := s.portC.extractLsb' 0 3, history := afterSelect s.cs (s.portC.extractLsb' 0 3) s.history, ret := none }

/-- A control byte with bit 7 set replaces the control register and nothing else (R198, R199; D5, D6), where the cache
holds the select. Both the control write and the row MODESET, which is that whole write (log entry 12). -/
def Obligations.ModeSetReplacesTheControlRegister : Prop :=
  ∀ (x : BitVec 1) (v : Byte) (s : State), v.getLsbD 7 = true → s.cs = s.portC.extractLsb' 0 3 →
    exec (.outPpiCtrl x v) s = .next { s with ctrl := v, ret := none } ∧
    exec (.modeset v) s = .next { s with ctrl := v, ret := none }

/-- A control byte with bit 7 clear writes exactly one bit of port C, the index in bits 3:1 and the value in bit 0, and
leaves the control register; then the select is recalculated (R198, R200, R202; D7, D8). Both the control write and the
row BSR, which is that whole write, the recalculation included (log entry 12). -/
def Obligations.BitSetResetWritesOneBit : Prop :=
  ∀ (x : BitVec 1) (ign n : BitVec 3) (b : Bool) (s : State),
    exec (.outPpiCtrl x ((0b0#1) ++ ign ++ n ++ BitVec.ofBool b)) s = exec (.bsr ign n b) s ∧
    ∃ t, exec (.bsr ign n b) s = .next t ∧
      (∀ k, k < 8 → t.portC.getLsbD k = if k = n.toNat then b else s.portC.getLsbD k) ∧
      t = { s with
        portC := t.portC, cs := t.portC.extractLsb' 0 3
        history := afterSelect s.cs (t.portC.extractLsb' 0 3) s.history, ret := none }

/-- Over every operation but RESET: a lower event is sent exactly once when the select goes from non-zero to zero, a
raise event exactly once on the reverse, and neither otherwise (R202, R203). -/
def Obligations.ChipSelectEventsCountTransitions : Prop :=
  ∀ (i : Instr) (s t : State), s.cs = s.portC.extractLsb' 0 3 → exec i s = .next t → (∀ p, i ≠ .reset p) →
    t.history.count .csLower = s.history.count .csLower + (if s.cs ≠ 0 ∧ t.cs = 0 then 1 else 0) ∧
    t.history.count .csRaise = s.history.count .csRaise + (if s.cs = 0 ∧ t.cs ≠ 0 then 1 else 0)

/-- The out-of-range arms, which no port reaches (R163, R194, R201; D29): a read returns 0xFF with a diagnostic, a write
changes no register. -/
def Obligations.OutOfRangeSubAddresses : Prop :=
  ∀ (n : Nat) (v : Byte) (s : State), s.cs = s.portC.extractLsb' 0 3 →
    ppiRead (n + 4) s = { s with diags := .ppiBadSubRead (n + 4) :: s.diags, ret := some 0xFF } ∧
    ppiWrite (n + 4) v s = { s with diags := .ppiBadSubWrite (n + 4) v :: s.diags }

/-! ## Ports -/

/-- A claimed port read returns the controller's answer to the full 16-bit address and changes no state of the block,
whatever the low byte would select (R153). -/
def Obligations.ClaimedPortReadIsDelegatedWhole : Prop :=
  ∀ (addr : PortAddr) (s : State), s.claimsAnswer addr = true → ∃ t, exec (.portRead addr) s = .next t ∧
    t.ret = some ((s.call (.claims addr)).ctlReadAnswer addr) ∧
    t.history = .ctlRead addr :: .claims addr :: s.history ∧ SameBlock s t ∧ SameRun s t

/-- The rows of a claimed port: the call to the controller, its answer on the bus, and no state of the block but the
recalculation request that the controller may make inside the write (R153, R154, R240; log entry 5). -/
def Obligations.ClaimedRowsOnlyCallTheController : Prop :=
  ∀ (addr : PortAddr) (v : Byte) (s : State),
    exec (.inClaimed addr) s = .next { s with
      ret := some (s.ctlReadAnswer addr), history := .ctlRead addr :: s.history
      answers := { s.answers with ctlRead := s.answers.ctlRead.tail } } ∧
    exec (.outClaimed addr v) s = .next { s with
      ret := none, history := .ctlWrite addr v :: s.history, recalc := s.recalc || s.ctlWriteRequests addr v
      answers := { s.answers with ctlWrite := s.answers.ctlWrite.tail } }

/-- The rows of the IDE and floppy windows: the call with the sub-address, and no state of the block but the
recalculation request that the floppy controller may make inside a write (R156, R157, R159, R160, R240; log entry 5). -/
def Obligations.DeviceRowsOnlyCallTheDevice : Prop :=
  ∀ (sub : BitVec 3) (v : Byte) (s : State),
    exec (.inIde sub) s = .next { s with
      ret := some (s.ideReadAnswer sub), history := .ideRead sub :: s.history
      answers := { s.answers with ideRead := s.answers.ideRead.tail } } ∧
    exec (.outIde sub v) s = .next { s with ret := none, history := .ideWrite sub v :: s.history } ∧
    exec (.inFdc sub) s = .next { s with
      ret := some (s.fdcReadAnswer sub), history := .fdcRead sub :: s.history
      answers := { s.answers with fdcRead := s.answers.fdcRead.tail } } ∧
    exec (.outFdc sub v) s = .next { s with
      ret := none, history := .fdcWrite sub v :: s.history, recalc := s.recalc || s.fdcWriteRequests sub v
      answers := { s.answers with fdcWrite := s.answers.fdcWrite.tail } }

/-- The output-only ports: a read returns 0xFF and changes nothing, a write of the LED port stores the byte (R165 to
R167, R169; D9, D10). -/
def Obligations.OutputOnlyPorts : Prop :=
  ∀ (v : Byte) (s : State),
    exec .inLed s = .next { s with ret := some 0xFF } ∧ exec .inTraceLo s = .next { s with ret := some 0xFF } ∧
    exec .inTraceHi s = .next { s with ret := some 0xFF } ∧ exec (.outLed v) s = .next { s with led := v, ret := none }

/-- A write of port 0xFD or 0xFE replaces its byte of the trace level, leaves the other, and calls no device (R168,
R170); the form of the requests that name the two ports is log entry 2. -/
def Obligations.TracePortWritesReplaceOneByte : Prop :=
  ∀ (v : Byte) (s : State),
    decode s.ctx ⟨.port8 .write, [0xFD, v]⟩ = .ok (.outTraceLo v) ∧
    decode s.ctx ⟨.port8 .write, [0xFE, v]⟩ = .ok (.outTraceHi v) ∧
    (∃ w, exec (.outTraceLo v) s = .next { s with trace := w, ret := none } ∧
      w.extractLsb' 0 8 = v ∧ w.extractLsb' 8 8 = s.trace.extractLsb' 8 8) ∧
    (∃ w, exec (.outTraceHi v) s = .next { s with trace := w, ret := none } ∧
      w.extractLsb' 8 8 = v ∧ w.extractLsb' 0 8 = s.trace.extractLsb' 0 8)

/-- Every unmapped port reads 0xFF and ignores writes, with no state of the block changed: the rows, and the port
operations at every unclaimed address that the map leaves unmapped, the IDE window without an IDE device among them
(R158, R171, R172). -/
def Obligations.UnmappedPortsReadOpenBusAndIgnoreWrites : Prop :=
  (∀ (p v : Byte) (s : State), ∃ d e,
    exec (.inUnmapped p) s = .next { s with ret := some 0xFF, diags := d } ∧
    exec (.outUnmapped p v) s = .next { s with ret := none, diags := e }) ∧
  (∀ (addr : PortAddr) (v : Byte) (s : State), s.claimsAnswer addr = false →
    portDecode s.params.ideConfigured (addr.extractLsb' 0 8) = .unmapped →
    ∃ t u, exec (.portRead addr) s = .next t ∧ t.ret = some 0xFF ∧ SameBlock s t ∧ SameRun s t ∧
      exec (.portWrite addr v) s = .next u ∧ u.ret = none ∧ SameBlock s u ∧ SameRun s u ∧
      t.history = .claims addr :: s.history ∧ u.history = .claims addr :: s.history)

/-- An unclaimed port operation does what the PORT8 row of the low byte does, at the state after the claim check (R150,
R151, R152, R155): the high byte has no influence on which row runs. The call `ext.Claims` keeps the whole address in the
history, on which a device's free answer may depend (log entry 4). That a row is the whole operation after the claim check
is read off R150 and R151 (log entry 13), the form of the decoded request is log entry 2. -/
def Obligations.UnclaimedPortOperationsAreTheirRows : Prop :=
  ∀ (addr : PortAddr) (v : Byte) (s : State), s.claimsAnswer addr = false → ∃ i j d e,
    decode s.ctx ⟨.port8 .read, [addr.extractLsb' 0 8]⟩ = .ok i ∧
    decode s.ctx ⟨.port8 .write, [addr.extractLsb' 0 8, v]⟩ = .ok j ∧
    exec (.portRead addr) s = exec i { s with
      history := .claims addr :: s.history, diags := d
      answers := { s.answers with claims := s.answers.claims.tail } } ∧
    exec (.portWrite addr v) s = exec j { s with
      history := .claims addr :: s.history, diags := e
      answers := { s.answers with claims := s.answers.claims.tail } }

/-- A port read completes with a byte and changes no state of the block (R66, R173). -/
def Obligations.PortReadsChangeNoBlockState : Prop :=
  ∀ (addr : PortAddr) (s : State), ∃ t b, exec (.portRead addr) s = .next t ∧ t.ret = some b ∧
    SameBlock s t ∧ SameRun s t

/-- A port write completes and changes only what its own address selects (R67, R154, R173). Claimed: the controller's
write is called with the whole address, and nothing else changes but the recalculation request that it may make inside the
call (R154, R240; log entry 5). Otherwise: the LED latch only at 0x0D, the trace level only at 0xFD and 0xFE; port A, port
B, port C and the control register only at their own sub-address of 0x78 to 0x7F (D3), a bit command of the control address
writing port C and a mode set the control register (D6, D7); the cache only in that window; `S.recalc` only in the floppy
window (log entry 5); and never RAM, ROM, the detector or `S.liveIrq`. -/
def Obligations.PortWritesChangeOnlyTheirDevice : Prop :=
  ∀ (addr : PortAddr) (v : Byte) (s : State), ∃ t, exec (.portWrite addr v) s = .next t ∧ t.ret = none ∧ SameRun s t ∧
    t.ram = s.ram ∧ (∀ x, t.ramAt x = s.ramAt x) ∧ t.rom = s.rom ∧ t.det = s.det ∧ t.liveIrq = s.liveIrq ∧
    (s.claimsAnswer addr = true → t = { s with
      ret := none, diags := t.diags, history := .ctlWrite addr v :: .claims addr :: s.history
      recalc := s.recalc || (s.call (.claims addr)).ctlWriteRequests addr v
      answers := { s.answers with claims := s.answers.claims.tail, ctlWrite := s.answers.ctlWrite.tail } }) ∧
    (s.claimsAnswer addr = false →
      (addr.extractLsb' 0 8 ≠ 0x0D → t.led = s.led) ∧
      (addr.extractLsb' 0 8 ≠ 0xFD ∧ addr.extractLsb' 0 8 ≠ 0xFE → t.trace = s.trace) ∧
      (addr.extractLsb' 3 5 ≠ 0b01110#5 → t.recalc = s.recalc) ∧
      (addr.extractLsb' 3 5 ≠ 0b01111#5 → t.cs = s.cs) ∧
      (¬(addr.extractLsb' 3 5 = 0b01111#5 ∧ addr.extractLsb' 0 2 = 0) → t.portA = s.portA) ∧
      (¬(addr.extractLsb' 3 5 = 0b01111#5 ∧ addr.extractLsb' 0 2 = 1) → t.portB = s.portB) ∧
      (¬(addr.extractLsb' 3 5 = 0b01111#5 ∧
          (addr.extractLsb' 0 2 = 2 ∨ (addr.extractLsb' 0 2 = 3 ∧ v.getLsbD 7 = false))) → t.portC = s.portC) ∧
      (¬(addr.extractLsb' 3 5 = 0b01111#5 ∧ addr.extractLsb' 0 2 = 3 ∧ v.getLsbD 7 = true) → t.ctrl = s.ctrl))

/-! ## The SPI bridge -/

/-- Bit reversal: result bit `i` is bit `7 - i`, and reversing twice gives the byte back (R260). -/
def Obligations.BitReversalIsAnInvolution : Prop :=
  ∀ (b : Byte) (s : State), ∃ r, exec (.rev8 b) s = .next { s with ret := some r } ∧
    (∀ k, k < 8 → r.getLsbD k = b.getLsbD (7 - k)) ∧
    exec (.rev8 r) s = .next { s with ret := some b }

/-- The bridge: with no device attached 0xFF and no call; with one, the reversed byte is sent and the answer returned
reversed (R261). -/
def Obligations.SpiExchangeReversesBothWays : Prop :=
  ∀ (b : Byte) (s : State), ∃ r q,
    exec (.rev8 b) s = .next { s with ret := some r } ∧
    exec (.rev8 (s.spiXferAnswer r)) s = .next { s with ret := some q } ∧
    (s.params.spiAttached = false → exec (.spiExchange b) s = .next { s with ret := some 0xFF }) ∧
    (s.params.spiAttached = true → exec (.spiExchange b) s = .next { s with
      ret := some q, history := .spiXfer r :: s.history
      answers := { s.answers with spiXfer := s.answers.spiXfer.tail } })

/-! ## The schedule of the service -/

/-- RecalcService is enabled at every instruction boundary and nowhere else, so never between the two fetches of one RETI, and
an owed one eventually comes (R242, R321; D15).
The oldest request, when it is a service, is performed at a boundary, and it waits inside an instruction; what waits is kept.
An operation of an agent other than the CPU leaves the CPU where it stands, and the detector too, RESET apart, which sets it
to `Idle`. One of the CPU that is not its instruction's last leaves no boundary. One that is leaves a boundary, unless the CPU
is then between the two opcode bytes that begin with 0xED. That is where it stands after the opcode fetch of an 0xED as the
first opcode byte, prefixes 0xDD and 0xFD apart, whatever the CPU says of it, and until the CPU reads again; the opcode fetch
that follows takes it out.
In an endless fair run of a started block, while a re-poll is owed there is a later service, at a boundary, with the flag
still set, and it polls unless an interrupt is live. How the CPU's place is known is log entry 18, the requests are log entry
2, the prefix bytes are D11 (log entry 11). -/
def Obligations.RecalcServiceComesAtBoundariesOnly : Prop :=
  (∀ (s : State) (q : Asked) (rest : List Asked) (iff1 iff2 : Bool),
    s.pending = q :: rest → decode s.ctx q.request = .ok (.recalcSvc iff1 iff2) →
    (s.waits q = true ↔ s.cpuAt ≠ .boundary) ∧
    (s.cpuAt = .boundary → ∃ t, exec (.recalcSvc iff1 iff2) { s with pending := rest } = .next t ∧
      step s = .next { t with started := true, cpuAt := .boundary })) ∧
  (∀ (s t : State) (q : Asked), q ∈ s.pending → s.waits q = true → step s = .next t → q ∈ t.pending) ∧
  (∀ (s t u : State) (q : Asked) (i : Instr), askedBy q.dma i ≠ .cpu → exec i s = .next t →
    cpuAfter q i s u = s.cpuAt ∧ (t.det = s.det ∨ ((∃ p, i = .reset p) ∧ t.det = .idle))) ∧
  (∀ (s t : State) (q : Asked) (i : Instr), askedBy q.dma i = .cpu →
    (q.ends = false → cpuAfter q i s t ≠ .boundary) ∧
    (q.ends = true → cpuAfter q i s t = .boundary ∨ cpuAfter q i s t = .extended)) ∧
  (∀ (s t : State) (q : Asked) (i : Instr) (b : Byte), askedBy q.dma i = .cpu → fetchedByte i s = some b →
    (cpuAfter q i s t = .extended ↔ (s.cpuAt = .boundary ∨ s.cpuAt = .prefixed) ∧ b = 0xED)) ∧
  (∀ (s t : State) (q : Asked) (i : Instr), s.cpuAt = .extended → fetchedByte i s = none → isOperandRead i = false →
    cpuAfter q i s t = .extended) ∧
  (∀ (s t : State) (q : Asked) (i : Instr), s.cpuAt ≠ .extended → fetchedByte i s = none →
    cpuAfter q i s t ≠ .extended) ∧
  (∀ (σ : Nat → Asked) (ρ : Nat → State), Run σ ρ → Fair σ ρ →
    ∀ n, (ρ n).started = true → (ρ n).recalc = true →
      ∃ m, n ≤ m ∧ ServiceAt σ ρ m ∧ (ρ m).cpuAt = .boundary ∧ (ρ m).recalc = true ∧
        ((ρ m).liveIrq = false → (ρ (m + 1)).history = .poll :: (ρ m).history))
end

