-- ==== Sys2Proof/Laws/Memory.lean ====
section
/-! SUPPORT. The laws of the sparse byte arrays: read after write, and the canonical form that every write keeps. -/

namespace Sys2Proof.Machine

theorem get?_put (m : Memory) (a : Nat) (v : Byte) (x : Nat) :
    Memory.get? (Memory.put m a v) x = if x = a then some v else Memory.get? m x := by
  induction m with
  | nil => simp [Memory.put, Memory.get?]
  | cons c m ih =>
    obtain ⟨k, w⟩ := c
    by_cases h1 : a < k
    · simp [Memory.put, Memory.get?, h1]
    · by_cases h2 : a = k
      · subst h2
        by_cases h3 : x = a <;> simp [Memory.put, Memory.get?, h3]
      · by_cases h3 : x = k
        · subst h3
          simp [Memory.put, Memory.get?, h1, h2, Ne.symm h2]
        · simp [Memory.put, Memory.get?, h1, h2, h3, ih]

theorem wf_cons (a : Nat) (v : Byte) (m : Memory) :
    Memory.wf ((a, v) :: m) = (m.head?.all (fun c => decide (a < c.1)) && Memory.wf m) := by
  cases m with
  | nil => rfl
  | cons c m => rfl

theorem head_put (m : Memory) (a k : Nat) (v : Byte) (hk : k < a)
    (h : m.head?.all (fun c => decide (k < c.1)) = true) :
    (Memory.put m a v).head?.all (fun c => decide (k < c.1)) = true := by
  cases m with
  | nil => simpa [Memory.put] using hk
  | cons c m =>
    obtain ⟨j, w⟩ := c
    by_cases h1 : a < j
    · simpa [Memory.put, h1] using hk
    · by_cases h2 : a = j
      · simpa [Memory.put, h1, h2] using h
      · simpa [Memory.put, h1, h2] using h

theorem put_wf (m : Memory) (a : Nat) (v : Byte) (h : Memory.wf m = true) : Memory.wf (Memory.put m a v) = true := by
  induction m with
  | nil => rfl
  | cons c m ih =>
    obtain ⟨k, w⟩ := c
    rw [wf_cons, Bool.and_eq_true] at h
    by_cases h1 : a < k
    · simp [Memory.put, h1, wf_cons, h]
    · by_cases h2 : a = k
      · subst h2
        simp [Memory.put, wf_cons, h]
      · simp only [Memory.put, h1, h2, if_false, wf_cons, Bool.and_eq_true]
        exact ⟨head_put m a k v (by omega) h.1, ih h.2⟩

theorem put_below (n : Nat) (m : Memory) (a : Nat) (v : Byte) (ha : a < n) (h : Memory.below n m = true) :
    Memory.below n (Memory.put m a v) = true := by
  induction m with
  | nil => simp [Memory.put, Memory.below, ha]
  | cons c m ih =>
    obtain ⟨k, w⟩ := c
    simp only [Memory.below, Bool.and_eq_true, decide_eq_true_eq] at h
    by_cases h1 : a < k
    · simp [Memory.put, h1, Memory.below, ha, h]
    · by_cases h2 : a = k
      · simp [Memory.put, h2, Memory.below, h]
      · simp [Memory.put, h1, h2, Memory.below, h, ih]

theorem loadRom_wf (xs : List ImageByte) (m : Memory) (h : Memory.wf m = true) : Memory.wf (loadRom xs m) = true := by
  induction xs generalizing m with
  | nil => exact h
  | cons x xs ih => cases x with
    | rom i v => exact ih _ (put_wf _ _ _ h)
    | ram i v => exact ih _ h

theorem loadRam_wf (xs : List ImageByte) (m : Memory) (h : Memory.wf m = true) : Memory.wf (loadRam xs m) = true := by
  induction xs generalizing m with
  | nil => exact h
  | cons x xs ih => cases x with
    | rom i v => exact ih _ h
    | ram i v => exact ih _ (put_wf _ _ _ h)

theorem loadRom_below (xs : List ImageByte) (m : Memory) (h : Memory.below (2 ^ 19) m = true) :
    Memory.below (2 ^ 19) (loadRom xs m) = true := by
  induction xs generalizing m with
  | nil => exact h
  | cons x xs ih => cases x with
    | rom i v => exact ih _ (put_below _ _ _ _ i.isLt h)
    | ram i v => exact ih _ h

theorem loadRam_below (xs : List ImageByte) (m : Memory) (h : Memory.below (2 ^ 20) m = true) :
    Memory.below (2 ^ 20) (loadRam xs m) = true := by
  induction xs generalizing m with
  | nil => exact h
  | cons x xs ih => cases x with
    | rom i v => exact ih _ h
    | ram i v => exact ih _ (put_below _ _ _ _ i.isLt h)

theorem reset_memory_wf : Memory.wf State.reset.ram = true ∧ Memory.wf State.reset.rom = true := by decide

theorem storeRam_ramAt (s : State) (a : PhysAddr) (v : Byte) (x : Nat) :
    (s.storeRam a v).ramAt x = if x = a.toNat then v else s.ramAt x := by
  unfold State.ramAt State.storeRam
  simp only [get?_put]
  split <;> rfl

theorem ramAt_congr (s t : State) (h : t.ram = s.ram) (x : Nat) : t.ramAt x = s.ramAt x := by
  simp [State.ramAt, h]

theorem romAt_congr (s t : State) (h : t.rom = s.rom) (x : Nat) : t.romAt x = s.romAt x := by
  simp [State.romAt, h]

end Sys2Proof.Machine
end

