-- ==== Sys2Proof/Laws/State.lean ====
section
/-! SUPPORT. One lemma for each field and each update: what the update leaves in the field. -/

namespace Sys2Proof.Machine

variable (s : State)

@[simp] theorem setRet_portA (v : Byte) : (s.setRet v).portA = s.portA := rfl
@[simp] theorem setRet_portB (v : Byte) : (s.setRet v).portB = s.portB := rfl
@[simp] theorem setRet_portC (v : Byte) : (s.setRet v).portC = s.portC := rfl
@[simp] theorem setRet_ctrl (v : Byte) : (s.setRet v).ctrl = s.ctrl := rfl
@[simp] theorem setRet_cs (v : Byte) : (s.setRet v).cs = s.cs := rfl
@[simp] theorem setRet_liveIrq (v : Byte) : (s.setRet v).liveIrq = s.liveIrq := rfl
@[simp] theorem setRet_recalc (v : Byte) : (s.setRet v).recalc = s.recalc := rfl
@[simp] theorem setRet_det (v : Byte) : (s.setRet v).det = s.det := rfl
@[simp] theorem setRet_trace (v : Byte) : (s.setRet v).trace = s.trace := rfl
@[simp] theorem setRet_led (v : Byte) : (s.setRet v).led = s.led := rfl
@[simp] theorem setRet_ram (v : Byte) : (s.setRet v).ram = s.ram := rfl
@[simp] theorem setRet_rom (v : Byte) : (s.setRet v).rom = s.rom := rfl
@[simp] theorem setRet_params (v : Byte) : (s.setRet v).params = s.params := rfl
@[simp] theorem setRet_ret (v : Byte) : (s.setRet v).ret = some v := rfl
@[simp] theorem setRet_history (v : Byte) : (s.setRet v).history = s.history := rfl
@[simp] theorem setRet_answers (v : Byte) : (s.setRet v).answers = s.answers := rfl
@[simp] theorem setRet_diags (v : Byte) : (s.setRet v).diags = s.diags := rfl
@[simp] theorem setRet_pending (v : Byte) : (s.setRet v).pending = s.pending := rfl
@[simp] theorem setRet_started (v : Byte) : (s.setRet v).started = s.started := rfl
@[simp] theorem setRet_cpuAt (v : Byte) : (s.setRet v).cpuAt = s.cpuAt := rfl

@[simp] theorem noRet_portA : (s.noRet).portA = s.portA := rfl
@[simp] theorem noRet_portB : (s.noRet).portB = s.portB := rfl
@[simp] theorem noRet_portC : (s.noRet).portC = s.portC := rfl
@[simp] theorem noRet_ctrl : (s.noRet).ctrl = s.ctrl := rfl
@[simp] theorem noRet_cs : (s.noRet).cs = s.cs := rfl
@[simp] theorem noRet_liveIrq : (s.noRet).liveIrq = s.liveIrq := rfl
@[simp] theorem noRet_recalc : (s.noRet).recalc = s.recalc := rfl
@[simp] theorem noRet_det : (s.noRet).det = s.det := rfl
@[simp] theorem noRet_trace : (s.noRet).trace = s.trace := rfl
@[simp] theorem noRet_led : (s.noRet).led = s.led := rfl
@[simp] theorem noRet_ram : (s.noRet).ram = s.ram := rfl
@[simp] theorem noRet_rom : (s.noRet).rom = s.rom := rfl
@[simp] theorem noRet_params : (s.noRet).params = s.params := rfl
@[simp] theorem noRet_ret : (s.noRet).ret = none := rfl
@[simp] theorem noRet_history : (s.noRet).history = s.history := rfl
@[simp] theorem noRet_answers : (s.noRet).answers = s.answers := rfl
@[simp] theorem noRet_diags : (s.noRet).diags = s.diags := rfl
@[simp] theorem noRet_pending : (s.noRet).pending = s.pending := rfl
@[simp] theorem noRet_started : (s.noRet).started = s.started := rfl
@[simp] theorem noRet_cpuAt : (s.noRet).cpuAt = s.cpuAt := rfl

@[simp] theorem setPortA_portA (v : Byte) : (s.setPortA v).portA = v := rfl
@[simp] theorem setPortA_portB (v : Byte) : (s.setPortA v).portB = s.portB := rfl
@[simp] theorem setPortA_portC (v : Byte) : (s.setPortA v).portC = s.portC := rfl
@[simp] theorem setPortA_ctrl (v : Byte) : (s.setPortA v).ctrl = s.ctrl := rfl
@[simp] theorem setPortA_cs (v : Byte) : (s.setPortA v).cs = s.cs := rfl
@[simp] theorem setPortA_liveIrq (v : Byte) : (s.setPortA v).liveIrq = s.liveIrq := rfl
@[simp] theorem setPortA_recalc (v : Byte) : (s.setPortA v).recalc = s.recalc := rfl
@[simp] theorem setPortA_det (v : Byte) : (s.setPortA v).det = s.det := rfl
@[simp] theorem setPortA_trace (v : Byte) : (s.setPortA v).trace = s.trace := rfl
@[simp] theorem setPortA_led (v : Byte) : (s.setPortA v).led = s.led := rfl
@[simp] theorem setPortA_ram (v : Byte) : (s.setPortA v).ram = s.ram := rfl
@[simp] theorem setPortA_rom (v : Byte) : (s.setPortA v).rom = s.rom := rfl
@[simp] theorem setPortA_params (v : Byte) : (s.setPortA v).params = s.params := rfl
@[simp] theorem setPortA_ret (v : Byte) : (s.setPortA v).ret = s.ret := rfl
@[simp] theorem setPortA_history (v : Byte) : (s.setPortA v).history = s.history := rfl
@[simp] theorem setPortA_answers (v : Byte) : (s.setPortA v).answers = s.answers := rfl
@[simp] theorem setPortA_diags (v : Byte) : (s.setPortA v).diags = s.diags := rfl
@[simp] theorem setPortA_pending (v : Byte) : (s.setPortA v).pending = s.pending := rfl
@[simp] theorem setPortA_started (v : Byte) : (s.setPortA v).started = s.started := rfl
@[simp] theorem setPortA_cpuAt (v : Byte) : (s.setPortA v).cpuAt = s.cpuAt := rfl

@[simp] theorem setPortB_portA (v : Byte) : (s.setPortB v).portA = s.portA := rfl
@[simp] theorem setPortB_portB (v : Byte) : (s.setPortB v).portB = v := rfl
@[simp] theorem setPortB_portC (v : Byte) : (s.setPortB v).portC = s.portC := rfl
@[simp] theorem setPortB_ctrl (v : Byte) : (s.setPortB v).ctrl = s.ctrl := rfl
@[simp] theorem setPortB_cs (v : Byte) : (s.setPortB v).cs = s.cs := rfl
@[simp] theorem setPortB_liveIrq (v : Byte) : (s.setPortB v).liveIrq = s.liveIrq := rfl
@[simp] theorem setPortB_recalc (v : Byte) : (s.setPortB v).recalc = s.recalc := rfl
@[simp] theorem setPortB_det (v : Byte) : (s.setPortB v).det = s.det := rfl
@[simp] theorem setPortB_trace (v : Byte) : (s.setPortB v).trace = s.trace := rfl
@[simp] theorem setPortB_led (v : Byte) : (s.setPortB v).led = s.led := rfl
@[simp] theorem setPortB_ram (v : Byte) : (s.setPortB v).ram = s.ram := rfl
@[simp] theorem setPortB_rom (v : Byte) : (s.setPortB v).rom = s.rom := rfl
@[simp] theorem setPortB_params (v : Byte) : (s.setPortB v).params = s.params := rfl
@[simp] theorem setPortB_ret (v : Byte) : (s.setPortB v).ret = s.ret := rfl
@[simp] theorem setPortB_history (v : Byte) : (s.setPortB v).history = s.history := rfl
@[simp] theorem setPortB_answers (v : Byte) : (s.setPortB v).answers = s.answers := rfl
@[simp] theorem setPortB_diags (v : Byte) : (s.setPortB v).diags = s.diags := rfl
@[simp] theorem setPortB_pending (v : Byte) : (s.setPortB v).pending = s.pending := rfl
@[simp] theorem setPortB_started (v : Byte) : (s.setPortB v).started = s.started := rfl
@[simp] theorem setPortB_cpuAt (v : Byte) : (s.setPortB v).cpuAt = s.cpuAt := rfl

@[simp] theorem setPortC_portA (v : Byte) : (s.setPortC v).portA = s.portA := rfl
@[simp] theorem setPortC_portB (v : Byte) : (s.setPortC v).portB = s.portB := rfl
@[simp] theorem setPortC_portC (v : Byte) : (s.setPortC v).portC = v := rfl
@[simp] theorem setPortC_ctrl (v : Byte) : (s.setPortC v).ctrl = s.ctrl := rfl
@[simp] theorem setPortC_cs (v : Byte) : (s.setPortC v).cs = s.cs := rfl
@[simp] theorem setPortC_liveIrq (v : Byte) : (s.setPortC v).liveIrq = s.liveIrq := rfl
@[simp] theorem setPortC_recalc (v : Byte) : (s.setPortC v).recalc = s.recalc := rfl
@[simp] theorem setPortC_det (v : Byte) : (s.setPortC v).det = s.det := rfl
@[simp] theorem setPortC_trace (v : Byte) : (s.setPortC v).trace = s.trace := rfl
@[simp] theorem setPortC_led (v : Byte) : (s.setPortC v).led = s.led := rfl
@[simp] theorem setPortC_ram (v : Byte) : (s.setPortC v).ram = s.ram := rfl
@[simp] theorem setPortC_rom (v : Byte) : (s.setPortC v).rom = s.rom := rfl
@[simp] theorem setPortC_params (v : Byte) : (s.setPortC v).params = s.params := rfl
@[simp] theorem setPortC_ret (v : Byte) : (s.setPortC v).ret = s.ret := rfl
@[simp] theorem setPortC_history (v : Byte) : (s.setPortC v).history = s.history := rfl
@[simp] theorem setPortC_answers (v : Byte) : (s.setPortC v).answers = s.answers := rfl
@[simp] theorem setPortC_diags (v : Byte) : (s.setPortC v).diags = s.diags := rfl
@[simp] theorem setPortC_pending (v : Byte) : (s.setPortC v).pending = s.pending := rfl
@[simp] theorem setPortC_started (v : Byte) : (s.setPortC v).started = s.started := rfl
@[simp] theorem setPortC_cpuAt (v : Byte) : (s.setPortC v).cpuAt = s.cpuAt := rfl

@[simp] theorem setCtrl_portA (v : Byte) : (s.setCtrl v).portA = s.portA := rfl
@[simp] theorem setCtrl_portB (v : Byte) : (s.setCtrl v).portB = s.portB := rfl
@[simp] theorem setCtrl_portC (v : Byte) : (s.setCtrl v).portC = s.portC := rfl
@[simp] theorem setCtrl_ctrl (v : Byte) : (s.setCtrl v).ctrl = v := rfl
@[simp] theorem setCtrl_cs (v : Byte) : (s.setCtrl v).cs = s.cs := rfl
@[simp] theorem setCtrl_liveIrq (v : Byte) : (s.setCtrl v).liveIrq = s.liveIrq := rfl
@[simp] theorem setCtrl_recalc (v : Byte) : (s.setCtrl v).recalc = s.recalc := rfl
@[simp] theorem setCtrl_det (v : Byte) : (s.setCtrl v).det = s.det := rfl
@[simp] theorem setCtrl_trace (v : Byte) : (s.setCtrl v).trace = s.trace := rfl
@[simp] theorem setCtrl_led (v : Byte) : (s.setCtrl v).led = s.led := rfl
@[simp] theorem setCtrl_ram (v : Byte) : (s.setCtrl v).ram = s.ram := rfl
@[simp] theorem setCtrl_rom (v : Byte) : (s.setCtrl v).rom = s.rom := rfl
@[simp] theorem setCtrl_params (v : Byte) : (s.setCtrl v).params = s.params := rfl
@[simp] theorem setCtrl_ret (v : Byte) : (s.setCtrl v).ret = s.ret := rfl
@[simp] theorem setCtrl_history (v : Byte) : (s.setCtrl v).history = s.history := rfl
@[simp] theorem setCtrl_answers (v : Byte) : (s.setCtrl v).answers = s.answers := rfl
@[simp] theorem setCtrl_diags (v : Byte) : (s.setCtrl v).diags = s.diags := rfl
@[simp] theorem setCtrl_pending (v : Byte) : (s.setCtrl v).pending = s.pending := rfl
@[simp] theorem setCtrl_started (v : Byte) : (s.setCtrl v).started = s.started := rfl
@[simp] theorem setCtrl_cpuAt (v : Byte) : (s.setCtrl v).cpuAt = s.cpuAt := rfl

@[simp] theorem setCs_portA (v : BitVec 3) : (s.setCs v).portA = s.portA := rfl
@[simp] theorem setCs_portB (v : BitVec 3) : (s.setCs v).portB = s.portB := rfl
@[simp] theorem setCs_portC (v : BitVec 3) : (s.setCs v).portC = s.portC := rfl
@[simp] theorem setCs_ctrl (v : BitVec 3) : (s.setCs v).ctrl = s.ctrl := rfl
@[simp] theorem setCs_cs (v : BitVec 3) : (s.setCs v).cs = v := rfl
@[simp] theorem setCs_liveIrq (v : BitVec 3) : (s.setCs v).liveIrq = s.liveIrq := rfl
@[simp] theorem setCs_recalc (v : BitVec 3) : (s.setCs v).recalc = s.recalc := rfl
@[simp] theorem setCs_det (v : BitVec 3) : (s.setCs v).det = s.det := rfl
@[simp] theorem setCs_trace (v : BitVec 3) : (s.setCs v).trace = s.trace := rfl
@[simp] theorem setCs_led (v : BitVec 3) : (s.setCs v).led = s.led := rfl
@[simp] theorem setCs_ram (v : BitVec 3) : (s.setCs v).ram = s.ram := rfl
@[simp] theorem setCs_rom (v : BitVec 3) : (s.setCs v).rom = s.rom := rfl
@[simp] theorem setCs_params (v : BitVec 3) : (s.setCs v).params = s.params := rfl
@[simp] theorem setCs_ret (v : BitVec 3) : (s.setCs v).ret = s.ret := rfl
@[simp] theorem setCs_history (v : BitVec 3) : (s.setCs v).history = s.history := rfl
@[simp] theorem setCs_answers (v : BitVec 3) : (s.setCs v).answers = s.answers := rfl
@[simp] theorem setCs_diags (v : BitVec 3) : (s.setCs v).diags = s.diags := rfl
@[simp] theorem setCs_pending (v : BitVec 3) : (s.setCs v).pending = s.pending := rfl
@[simp] theorem setCs_started (v : BitVec 3) : (s.setCs v).started = s.started := rfl
@[simp] theorem setCs_cpuAt (v : BitVec 3) : (s.setCs v).cpuAt = s.cpuAt := rfl

@[simp] theorem setLive_portA (v : Bool) : (s.setLive v).portA = s.portA := rfl
@[simp] theorem setLive_portB (v : Bool) : (s.setLive v).portB = s.portB := rfl
@[simp] theorem setLive_portC (v : Bool) : (s.setLive v).portC = s.portC := rfl
@[simp] theorem setLive_ctrl (v : Bool) : (s.setLive v).ctrl = s.ctrl := rfl
@[simp] theorem setLive_cs (v : Bool) : (s.setLive v).cs = s.cs := rfl
@[simp] theorem setLive_liveIrq (v : Bool) : (s.setLive v).liveIrq = v := rfl
@[simp] theorem setLive_recalc (v : Bool) : (s.setLive v).recalc = s.recalc := rfl
@[simp] theorem setLive_det (v : Bool) : (s.setLive v).det = s.det := rfl
@[simp] theorem setLive_trace (v : Bool) : (s.setLive v).trace = s.trace := rfl
@[simp] theorem setLive_led (v : Bool) : (s.setLive v).led = s.led := rfl
@[simp] theorem setLive_ram (v : Bool) : (s.setLive v).ram = s.ram := rfl
@[simp] theorem setLive_rom (v : Bool) : (s.setLive v).rom = s.rom := rfl
@[simp] theorem setLive_params (v : Bool) : (s.setLive v).params = s.params := rfl
@[simp] theorem setLive_ret (v : Bool) : (s.setLive v).ret = s.ret := rfl
@[simp] theorem setLive_history (v : Bool) : (s.setLive v).history = s.history := rfl
@[simp] theorem setLive_answers (v : Bool) : (s.setLive v).answers = s.answers := rfl
@[simp] theorem setLive_diags (v : Bool) : (s.setLive v).diags = s.diags := rfl
@[simp] theorem setLive_pending (v : Bool) : (s.setLive v).pending = s.pending := rfl
@[simp] theorem setLive_started (v : Bool) : (s.setLive v).started = s.started := rfl
@[simp] theorem setLive_cpuAt (v : Bool) : (s.setLive v).cpuAt = s.cpuAt := rfl

@[simp] theorem setRecalc_portA (v : Bool) : (s.setRecalc v).portA = s.portA := rfl
@[simp] theorem setRecalc_portB (v : Bool) : (s.setRecalc v).portB = s.portB := rfl
@[simp] theorem setRecalc_portC (v : Bool) : (s.setRecalc v).portC = s.portC := rfl
@[simp] theorem setRecalc_ctrl (v : Bool) : (s.setRecalc v).ctrl = s.ctrl := rfl
@[simp] theorem setRecalc_cs (v : Bool) : (s.setRecalc v).cs = s.cs := rfl
@[simp] theorem setRecalc_liveIrq (v : Bool) : (s.setRecalc v).liveIrq = s.liveIrq := rfl
@[simp] theorem setRecalc_recalc (v : Bool) : (s.setRecalc v).recalc = v := rfl
@[simp] theorem setRecalc_det (v : Bool) : (s.setRecalc v).det = s.det := rfl
@[simp] theorem setRecalc_trace (v : Bool) : (s.setRecalc v).trace = s.trace := rfl
@[simp] theorem setRecalc_led (v : Bool) : (s.setRecalc v).led = s.led := rfl
@[simp] theorem setRecalc_ram (v : Bool) : (s.setRecalc v).ram = s.ram := rfl
@[simp] theorem setRecalc_rom (v : Bool) : (s.setRecalc v).rom = s.rom := rfl
@[simp] theorem setRecalc_params (v : Bool) : (s.setRecalc v).params = s.params := rfl
@[simp] theorem setRecalc_ret (v : Bool) : (s.setRecalc v).ret = s.ret := rfl
@[simp] theorem setRecalc_history (v : Bool) : (s.setRecalc v).history = s.history := rfl
@[simp] theorem setRecalc_answers (v : Bool) : (s.setRecalc v).answers = s.answers := rfl
@[simp] theorem setRecalc_diags (v : Bool) : (s.setRecalc v).diags = s.diags := rfl
@[simp] theorem setRecalc_pending (v : Bool) : (s.setRecalc v).pending = s.pending := rfl
@[simp] theorem setRecalc_started (v : Bool) : (s.setRecalc v).started = s.started := rfl
@[simp] theorem setRecalc_cpuAt (v : Bool) : (s.setRecalc v).cpuAt = s.cpuAt := rfl

@[simp] theorem setDet_portA (v : Det) : (s.setDet v).portA = s.portA := rfl
@[simp] theorem setDet_portB (v : Det) : (s.setDet v).portB = s.portB := rfl
@[simp] theorem setDet_portC (v : Det) : (s.setDet v).portC = s.portC := rfl
@[simp] theorem setDet_ctrl (v : Det) : (s.setDet v).ctrl = s.ctrl := rfl
@[simp] theorem setDet_cs (v : Det) : (s.setDet v).cs = s.cs := rfl
@[simp] theorem setDet_liveIrq (v : Det) : (s.setDet v).liveIrq = s.liveIrq := rfl
@[simp] theorem setDet_recalc (v : Det) : (s.setDet v).recalc = s.recalc := rfl
@[simp] theorem setDet_det (v : Det) : (s.setDet v).det = v := rfl
@[simp] theorem setDet_trace (v : Det) : (s.setDet v).trace = s.trace := rfl
@[simp] theorem setDet_led (v : Det) : (s.setDet v).led = s.led := rfl
@[simp] theorem setDet_ram (v : Det) : (s.setDet v).ram = s.ram := rfl
@[simp] theorem setDet_rom (v : Det) : (s.setDet v).rom = s.rom := rfl
@[simp] theorem setDet_params (v : Det) : (s.setDet v).params = s.params := rfl
@[simp] theorem setDet_ret (v : Det) : (s.setDet v).ret = s.ret := rfl
@[simp] theorem setDet_history (v : Det) : (s.setDet v).history = s.history := rfl
@[simp] theorem setDet_answers (v : Det) : (s.setDet v).answers = s.answers := rfl
@[simp] theorem setDet_diags (v : Det) : (s.setDet v).diags = s.diags := rfl
@[simp] theorem setDet_pending (v : Det) : (s.setDet v).pending = s.pending := rfl
@[simp] theorem setDet_started (v : Det) : (s.setDet v).started = s.started := rfl
@[simp] theorem setDet_cpuAt (v : Det) : (s.setDet v).cpuAt = s.cpuAt := rfl

@[simp] theorem setTrace_portA (v : BitVec 16) : (s.setTrace v).portA = s.portA := rfl
@[simp] theorem setTrace_portB (v : BitVec 16) : (s.setTrace v).portB = s.portB := rfl
@[simp] theorem setTrace_portC (v : BitVec 16) : (s.setTrace v).portC = s.portC := rfl
@[simp] theorem setTrace_ctrl (v : BitVec 16) : (s.setTrace v).ctrl = s.ctrl := rfl
@[simp] theorem setTrace_cs (v : BitVec 16) : (s.setTrace v).cs = s.cs := rfl
@[simp] theorem setTrace_liveIrq (v : BitVec 16) : (s.setTrace v).liveIrq = s.liveIrq := rfl
@[simp] theorem setTrace_recalc (v : BitVec 16) : (s.setTrace v).recalc = s.recalc := rfl
@[simp] theorem setTrace_det (v : BitVec 16) : (s.setTrace v).det = s.det := rfl
@[simp] theorem setTrace_trace (v : BitVec 16) : (s.setTrace v).trace = v := rfl
@[simp] theorem setTrace_led (v : BitVec 16) : (s.setTrace v).led = s.led := rfl
@[simp] theorem setTrace_ram (v : BitVec 16) : (s.setTrace v).ram = s.ram := rfl
@[simp] theorem setTrace_rom (v : BitVec 16) : (s.setTrace v).rom = s.rom := rfl
@[simp] theorem setTrace_params (v : BitVec 16) : (s.setTrace v).params = s.params := rfl
@[simp] theorem setTrace_ret (v : BitVec 16) : (s.setTrace v).ret = s.ret := rfl
@[simp] theorem setTrace_history (v : BitVec 16) : (s.setTrace v).history = s.history := rfl
@[simp] theorem setTrace_answers (v : BitVec 16) : (s.setTrace v).answers = s.answers := rfl
@[simp] theorem setTrace_diags (v : BitVec 16) : (s.setTrace v).diags = s.diags := rfl
@[simp] theorem setTrace_pending (v : BitVec 16) : (s.setTrace v).pending = s.pending := rfl
@[simp] theorem setTrace_started (v : BitVec 16) : (s.setTrace v).started = s.started := rfl
@[simp] theorem setTrace_cpuAt (v : BitVec 16) : (s.setTrace v).cpuAt = s.cpuAt := rfl

@[simp] theorem setLed_portA (v : Byte) : (s.setLed v).portA = s.portA := rfl
@[simp] theorem setLed_portB (v : Byte) : (s.setLed v).portB = s.portB := rfl
@[simp] theorem setLed_portC (v : Byte) : (s.setLed v).portC = s.portC := rfl
@[simp] theorem setLed_ctrl (v : Byte) : (s.setLed v).ctrl = s.ctrl := rfl
@[simp] theorem setLed_cs (v : Byte) : (s.setLed v).cs = s.cs := rfl
@[simp] theorem setLed_liveIrq (v : Byte) : (s.setLed v).liveIrq = s.liveIrq := rfl
@[simp] theorem setLed_recalc (v : Byte) : (s.setLed v).recalc = s.recalc := rfl
@[simp] theorem setLed_det (v : Byte) : (s.setLed v).det = s.det := rfl
@[simp] theorem setLed_trace (v : Byte) : (s.setLed v).trace = s.trace := rfl
@[simp] theorem setLed_led (v : Byte) : (s.setLed v).led = v := rfl
@[simp] theorem setLed_ram (v : Byte) : (s.setLed v).ram = s.ram := rfl
@[simp] theorem setLed_rom (v : Byte) : (s.setLed v).rom = s.rom := rfl
@[simp] theorem setLed_params (v : Byte) : (s.setLed v).params = s.params := rfl
@[simp] theorem setLed_ret (v : Byte) : (s.setLed v).ret = s.ret := rfl
@[simp] theorem setLed_history (v : Byte) : (s.setLed v).history = s.history := rfl
@[simp] theorem setLed_answers (v : Byte) : (s.setLed v).answers = s.answers := rfl
@[simp] theorem setLed_diags (v : Byte) : (s.setLed v).diags = s.diags := rfl
@[simp] theorem setLed_pending (v : Byte) : (s.setLed v).pending = s.pending := rfl
@[simp] theorem setLed_started (v : Byte) : (s.setLed v).started = s.started := rfl
@[simp] theorem setLed_cpuAt (v : Byte) : (s.setLed v).cpuAt = s.cpuAt := rfl

@[simp] theorem storeRam_portA (a : PhysAddr) (v : Byte) : (s.storeRam a v).portA = s.portA := rfl
@[simp] theorem storeRam_portB (a : PhysAddr) (v : Byte) : (s.storeRam a v).portB = s.portB := rfl
@[simp] theorem storeRam_portC (a : PhysAddr) (v : Byte) : (s.storeRam a v).portC = s.portC := rfl
@[simp] theorem storeRam_ctrl (a : PhysAddr) (v : Byte) : (s.storeRam a v).ctrl = s.ctrl := rfl
@[simp] theorem storeRam_cs (a : PhysAddr) (v : Byte) : (s.storeRam a v).cs = s.cs := rfl
@[simp] theorem storeRam_liveIrq (a : PhysAddr) (v : Byte) : (s.storeRam a v).liveIrq = s.liveIrq := rfl
@[simp] theorem storeRam_recalc (a : PhysAddr) (v : Byte) : (s.storeRam a v).recalc = s.recalc := rfl
@[simp] theorem storeRam_det (a : PhysAddr) (v : Byte) : (s.storeRam a v).det = s.det := rfl
@[simp] theorem storeRam_trace (a : PhysAddr) (v : Byte) : (s.storeRam a v).trace = s.trace := rfl
@[simp] theorem storeRam_led (a : PhysAddr) (v : Byte) : (s.storeRam a v).led = s.led := rfl
@[simp] theorem storeRam_ram (a : PhysAddr) (v : Byte) : (s.storeRam a v).ram = Memory.put s.ram a.toNat v := rfl
@[simp] theorem storeRam_rom (a : PhysAddr) (v : Byte) : (s.storeRam a v).rom = s.rom := rfl
@[simp] theorem storeRam_params (a : PhysAddr) (v : Byte) : (s.storeRam a v).params = s.params := rfl
@[simp] theorem storeRam_ret (a : PhysAddr) (v : Byte) : (s.storeRam a v).ret = s.ret := rfl
@[simp] theorem storeRam_history (a : PhysAddr) (v : Byte) : (s.storeRam a v).history = s.history := rfl
@[simp] theorem storeRam_answers (a : PhysAddr) (v : Byte) : (s.storeRam a v).answers = s.answers := rfl
@[simp] theorem storeRam_diags (a : PhysAddr) (v : Byte) : (s.storeRam a v).diags = s.diags := rfl
@[simp] theorem storeRam_pending (a : PhysAddr) (v : Byte) : (s.storeRam a v).pending = s.pending := rfl
@[simp] theorem storeRam_started (a : PhysAddr) (v : Byte) : (s.storeRam a v).started = s.started := rfl
@[simp] theorem storeRam_cpuAt (a : PhysAddr) (v : Byte) : (s.storeRam a v).cpuAt = s.cpuAt := rfl

@[simp] theorem report_portA (d : Diag) : (s.report d).portA = s.portA := rfl
@[simp] theorem report_portB (d : Diag) : (s.report d).portB = s.portB := rfl
@[simp] theorem report_portC (d : Diag) : (s.report d).portC = s.portC := rfl
@[simp] theorem report_ctrl (d : Diag) : (s.report d).ctrl = s.ctrl := rfl
@[simp] theorem report_cs (d : Diag) : (s.report d).cs = s.cs := rfl
@[simp] theorem report_liveIrq (d : Diag) : (s.report d).liveIrq = s.liveIrq := rfl
@[simp] theorem report_recalc (d : Diag) : (s.report d).recalc = s.recalc := rfl
@[simp] theorem report_det (d : Diag) : (s.report d).det = s.det := rfl
@[simp] theorem report_trace (d : Diag) : (s.report d).trace = s.trace := rfl
@[simp] theorem report_led (d : Diag) : (s.report d).led = s.led := rfl
@[simp] theorem report_ram (d : Diag) : (s.report d).ram = s.ram := rfl
@[simp] theorem report_rom (d : Diag) : (s.report d).rom = s.rom := rfl
@[simp] theorem report_params (d : Diag) : (s.report d).params = s.params := rfl
@[simp] theorem report_ret (d : Diag) : (s.report d).ret = s.ret := rfl
@[simp] theorem report_history (d : Diag) : (s.report d).history = s.history := rfl
@[simp] theorem report_answers (d : Diag) : (s.report d).answers = s.answers := rfl
@[simp] theorem report_diags (d : Diag) : (s.report d).diags = d :: s.diags := rfl
@[simp] theorem report_pending (d : Diag) : (s.report d).pending = s.pending := rfl
@[simp] theorem report_started (d : Diag) : (s.report d).started = s.started := rfl
@[simp] theorem report_cpuAt (d : Diag) : (s.report d).cpuAt = s.cpuAt := rfl

@[simp] theorem traceIf_portA (g : TraceGate) (d : Diag) : (s.traceIf g d).portA = s.portA := rfl
@[simp] theorem traceIf_portB (g : TraceGate) (d : Diag) : (s.traceIf g d).portB = s.portB := rfl
@[simp] theorem traceIf_portC (g : TraceGate) (d : Diag) : (s.traceIf g d).portC = s.portC := rfl
@[simp] theorem traceIf_ctrl (g : TraceGate) (d : Diag) : (s.traceIf g d).ctrl = s.ctrl := rfl
@[simp] theorem traceIf_cs (g : TraceGate) (d : Diag) : (s.traceIf g d).cs = s.cs := rfl
@[simp] theorem traceIf_liveIrq (g : TraceGate) (d : Diag) : (s.traceIf g d).liveIrq = s.liveIrq := rfl
@[simp] theorem traceIf_recalc (g : TraceGate) (d : Diag) : (s.traceIf g d).recalc = s.recalc := rfl
@[simp] theorem traceIf_det (g : TraceGate) (d : Diag) : (s.traceIf g d).det = s.det := rfl
@[simp] theorem traceIf_trace (g : TraceGate) (d : Diag) : (s.traceIf g d).trace = s.trace := rfl
@[simp] theorem traceIf_led (g : TraceGate) (d : Diag) : (s.traceIf g d).led = s.led := rfl
@[simp] theorem traceIf_ram (g : TraceGate) (d : Diag) : (s.traceIf g d).ram = s.ram := rfl
@[simp] theorem traceIf_rom (g : TraceGate) (d : Diag) : (s.traceIf g d).rom = s.rom := rfl
@[simp] theorem traceIf_params (g : TraceGate) (d : Diag) : (s.traceIf g d).params = s.params := rfl
@[simp] theorem traceIf_ret (g : TraceGate) (d : Diag) : (s.traceIf g d).ret = s.ret := rfl
@[simp] theorem traceIf_history (g : TraceGate) (d : Diag) : (s.traceIf g d).history = s.history := rfl
@[simp] theorem traceIf_answers (g : TraceGate) (d : Diag) : (s.traceIf g d).answers = s.answers := rfl
@[simp] theorem traceIf_diags (g : TraceGate) (d : Diag) : (s.traceIf g d).diags = if Config.traceGate g s.trace then d :: s.diags else s.diags := rfl
@[simp] theorem traceIf_pending (g : TraceGate) (d : Diag) : (s.traceIf g d).pending = s.pending := rfl
@[simp] theorem traceIf_started (g : TraceGate) (d : Diag) : (s.traceIf g d).started = s.started := rfl
@[simp] theorem traceIf_cpuAt (g : TraceGate) (d : Diag) : (s.traceIf g d).cpuAt = s.cpuAt := rfl

@[simp] theorem call_portA (c : ExtCall) : (s.call c).portA = s.portA := rfl
@[simp] theorem call_portB (c : ExtCall) : (s.call c).portB = s.portB := rfl
@[simp] theorem call_portC (c : ExtCall) : (s.call c).portC = s.portC := rfl
@[simp] theorem call_ctrl (c : ExtCall) : (s.call c).ctrl = s.ctrl := rfl
@[simp] theorem call_cs (c : ExtCall) : (s.call c).cs = s.cs := rfl
@[simp] theorem call_liveIrq (c : ExtCall) : (s.call c).liveIrq = s.liveIrq := rfl
@[simp] theorem call_recalc (c : ExtCall) : (s.call c).recalc = s.recalc := rfl
@[simp] theorem call_det (c : ExtCall) : (s.call c).det = s.det := rfl
@[simp] theorem call_trace (c : ExtCall) : (s.call c).trace = s.trace := rfl
@[simp] theorem call_led (c : ExtCall) : (s.call c).led = s.led := rfl
@[simp] theorem call_ram (c : ExtCall) : (s.call c).ram = s.ram := rfl
@[simp] theorem call_rom (c : ExtCall) : (s.call c).rom = s.rom := rfl
@[simp] theorem call_params (c : ExtCall) : (s.call c).params = s.params := rfl
@[simp] theorem call_ret (c : ExtCall) : (s.call c).ret = s.ret := rfl
@[simp] theorem call_history (c : ExtCall) : (s.call c).history = c :: s.history := rfl
@[simp] theorem call_answers (c : ExtCall) : (s.call c).answers = s.answers.afterCall c := rfl
@[simp] theorem call_diags (c : ExtCall) : (s.call c).diags = s.diags := rfl
@[simp] theorem call_pending (c : ExtCall) : (s.call c).pending = s.pending := rfl
@[simp] theorem call_started (c : ExtCall) : (s.call c).started = s.started := rfl
@[simp] theorem call_cpuAt (c : ExtCall) : (s.call c).cpuAt = s.cpuAt := rfl

@[simp] theorem takeRequest_portA (rest : List Asked) : (s.takeRequest rest).portA = s.portA := rfl
@[simp] theorem takeRequest_portB (rest : List Asked) : (s.takeRequest rest).portB = s.portB := rfl
@[simp] theorem takeRequest_portC (rest : List Asked) : (s.takeRequest rest).portC = s.portC := rfl
@[simp] theorem takeRequest_ctrl (rest : List Asked) : (s.takeRequest rest).ctrl = s.ctrl := rfl
@[simp] theorem takeRequest_cs (rest : List Asked) : (s.takeRequest rest).cs = s.cs := rfl
@[simp] theorem takeRequest_liveIrq (rest : List Asked) : (s.takeRequest rest).liveIrq = s.liveIrq := rfl
@[simp] theorem takeRequest_recalc (rest : List Asked) : (s.takeRequest rest).recalc = s.recalc := rfl
@[simp] theorem takeRequest_det (rest : List Asked) : (s.takeRequest rest).det = s.det := rfl
@[simp] theorem takeRequest_trace (rest : List Asked) : (s.takeRequest rest).trace = s.trace := rfl
@[simp] theorem takeRequest_led (rest : List Asked) : (s.takeRequest rest).led = s.led := rfl
@[simp] theorem takeRequest_ram (rest : List Asked) : (s.takeRequest rest).ram = s.ram := rfl
@[simp] theorem takeRequest_rom (rest : List Asked) : (s.takeRequest rest).rom = s.rom := rfl
@[simp] theorem takeRequest_params (rest : List Asked) : (s.takeRequest rest).params = s.params := rfl
@[simp] theorem takeRequest_ret (rest : List Asked) : (s.takeRequest rest).ret = s.ret := rfl
@[simp] theorem takeRequest_history (rest : List Asked) : (s.takeRequest rest).history = s.history := rfl
@[simp] theorem takeRequest_answers (rest : List Asked) : (s.takeRequest rest).answers = s.answers := rfl
@[simp] theorem takeRequest_diags (rest : List Asked) : (s.takeRequest rest).diags = s.diags := rfl
@[simp] theorem takeRequest_pending (rest : List Asked) : (s.takeRequest rest).pending = rest := rfl
@[simp] theorem takeRequest_started (rest : List Asked) : (s.takeRequest rest).started = s.started := rfl
@[simp] theorem takeRequest_cpuAt (rest : List Asked) : (s.takeRequest rest).cpuAt = s.cpuAt := rfl

@[simp] theorem finish_portA (c : CpuAt) : (s.finish c).portA = s.portA := rfl
@[simp] theorem finish_portB (c : CpuAt) : (s.finish c).portB = s.portB := rfl
@[simp] theorem finish_portC (c : CpuAt) : (s.finish c).portC = s.portC := rfl
@[simp] theorem finish_ctrl (c : CpuAt) : (s.finish c).ctrl = s.ctrl := rfl
@[simp] theorem finish_cs (c : CpuAt) : (s.finish c).cs = s.cs := rfl
@[simp] theorem finish_liveIrq (c : CpuAt) : (s.finish c).liveIrq = s.liveIrq := rfl
@[simp] theorem finish_recalc (c : CpuAt) : (s.finish c).recalc = s.recalc := rfl
@[simp] theorem finish_det (c : CpuAt) : (s.finish c).det = s.det := rfl
@[simp] theorem finish_trace (c : CpuAt) : (s.finish c).trace = s.trace := rfl
@[simp] theorem finish_led (c : CpuAt) : (s.finish c).led = s.led := rfl
@[simp] theorem finish_ram (c : CpuAt) : (s.finish c).ram = s.ram := rfl
@[simp] theorem finish_rom (c : CpuAt) : (s.finish c).rom = s.rom := rfl
@[simp] theorem finish_params (c : CpuAt) : (s.finish c).params = s.params := rfl
@[simp] theorem finish_ret (c : CpuAt) : (s.finish c).ret = s.ret := rfl
@[simp] theorem finish_history (c : CpuAt) : (s.finish c).history = s.history := rfl
@[simp] theorem finish_answers (c : CpuAt) : (s.finish c).answers = s.answers := rfl
@[simp] theorem finish_diags (c : CpuAt) : (s.finish c).diags = s.diags := rfl
@[simp] theorem finish_pending (c : CpuAt) : (s.finish c).pending = s.pending := rfl
@[simp] theorem finish_started (c : CpuAt) : (s.finish c).started = true := rfl
@[simp] theorem finish_cpuAt (c : CpuAt) : (s.finish c).cpuAt = c := rfl

end Sys2Proof.Machine
end

