-- ==== Sys2Proof/Laws/Ops.lean ====
section
/-! SUPPORT. For each shared operation, once, everything it can do. -/

namespace Sys2Proof.Machine

/-! ## Addresses -/

theorem maskPhys_toNat (a : Nat) : (maskPhys a).toNat = a % 2 ^ 20 := by simp [maskPhys]

theorem maskPhys_mask (a : Nat) : maskPhys (maskPhys a).toNat = maskPhys a := by
  apply BitVec.eq_of_toNat_eq
  simp [maskPhys_toNat]

theorem extendedHalf_maskPhys (a : Nat) : extendedHalf (maskPhys a) = a.testBit 19 := by
  unfold extendedHalf maskPhys
  rw [BitVec.getLsbD_ofNat]
  rfl

theorem baseAddr_toNat (off : BitVec 19) : (baseAddr off).toNat = off.toNat := by
  unfold baseAddr
  rw [BitVec.toNat_append]
  simp

theorem extAddr_toNat (off : BitVec 19) : (extAddr off).toNat = 2 ^ 19 + off.toNat := by
  unfold extAddr
  rw [BitVec.toNat_append, ← Nat.shiftLeft_add_eq_or_of_lt off.isLt]
  rfl

/-! ## The bank decoder -/

theorem baseWrite_ramAt (a : PhysAddr) (v : Byte) (s : State) (x : Nat) :
    (baseWrite a v s).ramAt x = if x = a.toNat ∧ s.romEnabled = false then v else s.ramAt x := by
  unfold baseWrite
  cases h : s.romEnabled
  · simpa using storeRam_ramAt s a v x
  · simpa using ramAt_congr s (s.report (.romWrite a v)) rfl x

theorem extWrite_ramAt (a : PhysAddr) (v : Byte) (s : State) (x : Nat) :
    (extWrite a v s).ramAt x = if x = a.toNat ∧ s.extEnabled = true then v else s.ramAt x := by
  unfold extWrite
  cases h : s.extEnabled
  · simpa using ramAt_congr s (s.report (.extWriteDisabled a v)) rfl x
  · simpa using storeRam_ramAt s a v x

theorem physWrite_cases (a : Nat) (v : Byte) (s : State) :
    physWrite a v s = s.storeRam (maskPhys a) v ∨
    physWrite a v s = s.report (.romWrite (maskPhys a) v) ∨
    physWrite a v s = s.report (.extWriteDisabled (maskPhys a) v) := by
  unfold physWrite extWrite baseWrite
  repeat' split
  all_goals simp

/-- A physical write only touches RAM and the diagnostics. -/
theorem physWrite_eq (a : Nat) (v : Byte) (s : State) :
    ∃ m d, physWrite a v s = { s with ram := m, diags := d } ∧
      (m = s.ram ∨ m = Memory.put s.ram (maskPhys a).toNat v) := by
  rcases physWrite_cases a v s with h | h | h <;> rw [h]
  · exact ⟨_, s.diags, rfl, .inr rfl⟩
  · exact ⟨s.ram, _, rfl, .inl rfl⟩
  · exact ⟨s.ram, _, rfl, .inl rfl⟩

theorem baseWrite_eq (a : PhysAddr) (v : Byte) (s : State) :
    ∃ m d, baseWrite a v s = { s with ram := m, diags := d } ∧ (m = s.ram ∨ m = Memory.put s.ram a.toNat v) := by
  unfold baseWrite
  split
  · exact ⟨s.ram, _, rfl, .inl rfl⟩
  · exact ⟨_, s.diags, rfl, .inr rfl⟩

theorem extWrite_eq (a : PhysAddr) (v : Byte) (s : State) :
    ∃ m d, extWrite a v s = { s with ram := m, diags := d } ∧ (m = s.ram ∨ m = Memory.put s.ram a.toNat v) := by
  unfold extWrite
  split
  · exact ⟨_, s.diags, rfl, .inr rfl⟩
  · exact ⟨s.ram, _, rfl, .inl rfl⟩

/-- A virtual read asks for one translation and returns the byte. -/
theorem virtRead_eq (va : VirtAddr) (quiet : Bool) (s : State) :
    ∃ d, virtRead va quiet s =
      { s with ret := some (virtByte s va), history := .translate va :: s.history
               answers := s.answers.afterCall (.translate va), diags := d } := by
  cases quiet <;> exact ⟨_, rfl⟩

/-- A virtual write asks for one translation and writes at the masked answer. -/
theorem virtWrite_eq (va : VirtAddr) (v : Byte) (s : State) :
    ∃ m d, virtWrite va v s =
      { s with ram := m, history := .translate va :: s.history
               answers := s.answers.afterCall (.translate va), diags := d } ∧
      (m = s.ram ∨ m = Memory.put s.ram (maskPhys (s.physOf va).toNat).toNat v) := by
  obtain ⟨m, d, h, hm⟩ := physWrite_eq (s.physOf va).toNat v (s.call (.translate va))
  unfold virtWrite
  rw [h]
  exact ⟨m, _, rfl, hm⟩

/-! ## Interrupt mediation -/

theorem liveAfterPoll_eq (live raised : Bool) : liveAfterPoll live raised = (live || raised) := by
  cases live <;> cases raised <;> rfl

theorem recalcAfterService_eq (recalc iff1 iff2 : Bool) :
    recalcAfterService recalc iff1 iff2 = (recalc && (iff1 || iff2)) := by
  cases recalc <;> cases iff1 <;> cases iff2 <;> rfl

/-- The detector fires exactly on 0x4D in `SawPrefixED` (R236). -/
theorem detFires_iff (d : Det) (b : Byte) : detFires d b = true ↔ d = .sawPrefixED ∧ b = 0x4D := by
  cases d <;> revert b <;> decide

/-- The detector is in `SawPrefixED` exactly after 0xED taken from `Idle` (R236). -/
theorem detNext_eq (d : Det) (b : Byte) : detNext d b = if d = .idle ∧ b = 0xED then .sawPrefixED else .idle := by
  cases d <;> revert b <;> decide

theorem repoll_eq (s : State) :
    repoll s = { s with history := .poll :: s.history, answers := s.answers.afterCall .poll
                        liveIrq := liveAfterPoll s.liveIrq s.pollAnswer } := rfl

/-- The RETI event clears `S.liveIrq`, then re-polls. -/
theorem retiEvent_eq (s : State) :
    ∃ d, retiEvent s = { s with history := .poll :: s.history, answers := s.answers.afterCall .poll
                                liveIrq := liveAfterPoll false s.pollAnswer, diags := d } := ⟨_, rfl⟩

theorem fetchObserve_fires (b : Byte) (s : State) (h : detFires s.det b = true) :
    fetchObserve b s = retiEvent (s.setDet (detNext s.det b)) := by simp [fetchObserve, h]

theorem fetchObserve_quiet (b : Byte) (s : State) (h : detFires s.det b = false) :
    fetchObserve b s = s.setDet (detNext s.det b) := by simp [fetchObserve, h]

theorem nonFetchObserve_eq (s : State) :
    ∃ d, nonFetchObserve s = s.setDet d ∧ (d = .idle ∨ d = s.det) := by
  unfold nonFetchObserve
  split
  · exact ⟨_, rfl, .inl rfl⟩
  · exact ⟨s.det, rfl, .inr rfl⟩

theorem recalcService_cases (f1 f2 : Bool) (s : State) :
    (s.recalc = false ∧ recalcService f1 f2 s = s) ∨
    (s.recalc = true ∧ s.liveIrq = true ∧ recalcService f1 f2 s = s.setRecalc (recalcAfterService true f1 f2)) ∨
    (s.recalc = true ∧ s.liveIrq = false ∧
      recalcService f1 f2 s = (repoll s).setRecalc (recalcAfterService true f1 f2)) := by
  unfold recalcService
  cases h1 : s.recalc <;> cases h2 : s.liveIrq <;> simp

/-! ## The PPI -/

/-- The recalculation updates the cache and sends at most one event. -/
theorem csRecalc_eq (s : State) :
    csRecalc s = { s with
      cs := selectOf s.portC
      history :=
        if selectOf s.portC = s.cs then s.history
        else if selectOf s.portC = 0 then .csLower :: s.history
        else if s.cs = 0 then .csRaise :: s.history
        else s.history } := by
  unfold csRecalc
  repeat' split
  all_goals rfl

/-- Under R31 a recalculation after a store that keeps the select changes nothing. -/
theorem csRecalc_same (s : State) (h : s.cs = selectOf s.portC) : csRecalc s = s := by
  rw [csRecalc_eq]; simp [h]; rw [← h]

theorem setBit_getLsbD (c : Byte) (n k : Nat) (b : Bool) (hk : k < 8) :
    (setBit c n b).getLsbD k = if k = n then b else c.getLsbD k := by
  unfold setBit
  cases b
  · by_cases h : k = n
    · subst h; simp [hk]
    · by_cases h2 : k < n
      · simp [hk, h, h2]
      · have : k - n ≠ 0 := by omega
        simp [hk, h, this]
  · by_cases h : k = n
    · subst h; simp [hk]
    · by_cases h2 : k < n
      · simp [h, h2]
      · have : k - n ≠ 0 := by omega
        simp [hk, h, this]

theorem bitReverse_getLsbD (b : Byte) (k : Nat) (hk : k < 8) : (bitReverse b).getLsbD k = b.getLsbD (7 - k) := by
  revert b
  interval_cases k <;> decide

theorem bitReverse_bitReverse (b : Byte) : bitReverse (bitReverse b) = b := by
  revert b; decide

/-! ## The port multiplexer -/

/-- A collaborator's request inside a delegated call sets `S.recalc`, or nothing. -/
theorem recalcRequestIf_eq (requests : Bool) (s : State) :
    recalcRequestIf requests s = { s with recalc := s.recalc || requests } := by
  cases requests <;> simp [recalcRequestIf, State.setRecalc]

theorem portRead_claimed (addr : PortAddr) (s : State) (h : s.claimsAnswer addr = true) :
    portRead addr s = claimedRead addr (claimCheck .read addr s) := by simp [portRead, h]

theorem portRead_unclaimed (addr : PortAddr) (s : State) (h : s.claimsAnswer addr = false) :
    portRead addr s =
      targetRead (portDecode s.params.ideConfigured (maskPort addr)) (maskPort addr) (claimCheck .read addr s) := by
  simp [portRead, h]

theorem portWrite_claimed (addr : PortAddr) (v : Byte) (s : State) (h : s.claimsAnswer addr = true) :
    portWrite addr v s = claimedWrite addr v (claimCheck .write addr s) := by simp [portWrite, h]

theorem portWrite_unclaimed (addr : PortAddr) (v : Byte) (s : State) (h : s.claimsAnswer addr = false) :
    portWrite addr v s =
      targetWrite (portDecode s.params.ideConfigured (maskPort addr)) (maskPort addr) v (claimCheck .write addr s) := by
  simp [portWrite, h]

/-- What a PPI write leaves: the store of its sub-address, then the recalculation, which writes only the cache and the
history. -/
theorem ppiWrite_cases (sub : BitVec 2) (v : Byte) (s : State) :
    (sub = 0 ∧ ppiWrite sub.toNat v s = csRecalc (s.setPortA v)) ∨
    (sub = 1 ∧ ppiWrite sub.toNat v s = csRecalc (s.setPortB v)) ∨
    (sub = 2 ∧ ppiWrite sub.toNat v s = csRecalc (s.setPortC v)) ∨
    (sub = 3 ∧ v.getLsbD 7 = true ∧ ppiWrite sub.toNat v s = csRecalc (s.setCtrl v)) ∨
    (sub = 3 ∧ v.getLsbD 7 = false ∧ ppiWrite sub.toNat v s = csRecalc (bitSetReset v s)) := by
  have h : ∀ x : BitVec 2, x = 0 ∨ x = 1 ∨ x = 2 ∨ x = 3 := by decide
  rcases h sub with rfl | rfl | rfl | rfl
  · exact .inl ⟨rfl, rfl⟩
  · exact .inr (.inl ⟨rfl, rfl⟩)
  · exact .inr (.inr (.inl ⟨rfl, rfl⟩))
  · cases hv : v.getLsbD 7
    · refine .inr (.inr (.inr (.inr ⟨rfl, rfl, ?_⟩)))
      show csRecalc (if v.getLsbD 7 then modeSet v s else bitSetReset v s) = _
      rw [hv]; rfl
    · refine .inr (.inr (.inr (.inl ⟨rfl, rfl, ?_⟩)))
      show csRecalc (if v.getLsbD 7 then modeSet v s else bitSetReset v s) = _
      rw [hv]; rfl

end Sys2Proof.Machine
end

