-- ==== Sys2Proof/Laws/PerInstr.lean ====
section
/-! SUPPORT. One lemma for each operation: its encoded request has its opcode-table row's format and that format's
number of operand bytes. -/

namespace Sys2Proof.Laws

/-- The format and the number of operand bytes of a row (R90; log entry 2). -/
def shape : Instr → Format × Nat
  | .inClaimed _ => (.port16 .read, 2)
  | .outClaimed _ _ => (.port16 .write, 3)
  | .inIde _ => (.port8 .read, 1)
  | .outIde _ _ => (.port8 .write, 2)
  | .inFdc _ => (.port8 .read, 1)
  | .outFdc _ _ => (.port8 .write, 2)
  | .inPpiA _ => (.port8 .read, 1)
  | .inPpiB _ => (.port8 .read, 1)
  | .inPpiC _ => (.port8 .read, 1)
  | .inPpiCtrl _ => (.port8 .read, 1)
  | .outPpiA _ _ => (.port8 .write, 2)
  | .outPpiB _ _ => (.port8 .write, 2)
  | .outPpiC _ _ => (.port8 .write, 2)
  | .outPpiCtrl _ _ => (.port8 .write, 2)
  | .inLed => (.port8 .read, 1)
  | .outLed _ => (.port8 .write, 2)
  | .inTraceLo => (.port8 .read, 1)
  | .outTraceLo _ => (.port8 .write, 2)
  | .inTraceHi => (.port8 .read, 1)
  | .outTraceHi _ => (.port8 .write, 2)
  | .inUnmapped _ => (.port8 .read, 1)
  | .outUnmapped _ _ => (.port8 .write, 2)
  | .modeset _ => (.ppicw, 1)
  | .bsr _ _ _ => (.ppicw, 1)
  | .pfxDd => (.fetch8, 1)
  | .pfxFd => (.fetch8, 1)
  | .pfxCb => (.fetch8, 1)
  | .pfxEd => (.fetch8, 1)
  | .opcReti => (.fetch8, 1)
  | .otherIdle _ => (.fetch8, 1)
  | .otherSawed _ => (.fetch8, 1)
  | .memrBase _ => (.pa20 .read, 3)
  | .memrExt _ => (.pa20 .read, 3)
  | .memwBase _ _ => (.pa20 .write, 4)
  | .memwExt _ _ => (.pa20 .write, 4)
  | .physRead _ => (.event .physRead, 4)
  | .physWrite _ _ => (.event .physWrite, 5)
  | .virtRead _ _ => (.event .virtRead, 3)
  | .virtWrite _ _ => (.event .virtWrite, 3)
  | .cpuMemRead _ _ => (.event .cpuMemRead, 3)
  | .cpuMemWrite _ _ => (.event .cpuMemWrite, 3)
  | .portRead _ => (.event .portRead, 2)
  | .portWrite _ _ => (.event .portWrite, 3)
  | .csRecalc => (.event .csRecalc, 0)
  | .fetchObserve _ => (.event .fetchObserve, 1)
  | .nonfetch => (.event .nonfetch, 0)
  | .retiEvent => (.event .retiEvent, 0)
  | .repoll => (.event .repoll, 0)
  | .recalcReq => (.event .recalcReq, 0)
  | .recalcSvc _ _ => (.event .recalcSvc, 1)
  | .rev8 _ => (.event .rev8, 1)
  | .spiExchange _ => (.event .spiExchange, 1)
  | .reset p => (.event .reset, 7 + 4 * p.image.length)

/-- The statement of one operation. -/
def EncodeShape.Statement (i : Instr) : Prop := (encode i).fmt = (shape i).1 ∧ (encode i).bytes.length = (shape i).2

theorem image_length (xs : List ImageByte) : (xs.flatMap encodeImageByte).length = 4 * xs.length := by
  induction xs with
  | nil => rfl
  | cons x xs ih => cases x <;> simp [encodeImageByte, ih] <;> omega

theorem EncodeShape.inClaimed : ∀ addr, EncodeShape.Statement (.inClaimed addr) := fun _ => ⟨rfl, rfl⟩
theorem EncodeShape.outClaimed : ∀ addr v, EncodeShape.Statement (.outClaimed addr v) := fun _ _ => ⟨rfl, rfl⟩
theorem EncodeShape.inIde : ∀ sub, EncodeShape.Statement (.inIde sub) := fun _ => ⟨rfl, rfl⟩
theorem EncodeShape.outIde : ∀ sub v, EncodeShape.Statement (.outIde sub v) := fun _ _ => ⟨rfl, rfl⟩
theorem EncodeShape.inFdc : ∀ sub, EncodeShape.Statement (.inFdc sub) := fun _ => ⟨rfl, rfl⟩
theorem EncodeShape.outFdc : ∀ sub v, EncodeShape.Statement (.outFdc sub v) := fun _ _ => ⟨rfl, rfl⟩
theorem EncodeShape.inPpiA : ∀ x, EncodeShape.Statement (.inPpiA x) := fun _ => ⟨rfl, rfl⟩
theorem EncodeShape.inPpiB : ∀ x, EncodeShape.Statement (.inPpiB x) := fun _ => ⟨rfl, rfl⟩
theorem EncodeShape.inPpiC : ∀ x, EncodeShape.Statement (.inPpiC x) := fun _ => ⟨rfl, rfl⟩
theorem EncodeShape.inPpiCtrl : ∀ x, EncodeShape.Statement (.inPpiCtrl x) := fun _ => ⟨rfl, rfl⟩
theorem EncodeShape.outPpiA : ∀ x v, EncodeShape.Statement (.outPpiA x v) := fun _ _ => ⟨rfl, rfl⟩
theorem EncodeShape.outPpiB : ∀ x v, EncodeShape.Statement (.outPpiB x v) := fun _ _ => ⟨rfl, rfl⟩
theorem EncodeShape.outPpiC : ∀ x v, EncodeShape.Statement (.outPpiC x v) := fun _ _ => ⟨rfl, rfl⟩
theorem EncodeShape.outPpiCtrl : ∀ x v, EncodeShape.Statement (.outPpiCtrl x v) := fun _ _ => ⟨rfl, rfl⟩
theorem EncodeShape.inLed : EncodeShape.Statement (.inLed) := ⟨rfl, rfl⟩
theorem EncodeShape.outLed : ∀ v, EncodeShape.Statement (.outLed v) := fun _ => ⟨rfl, rfl⟩
theorem EncodeShape.inTraceLo : EncodeShape.Statement (.inTraceLo) := ⟨rfl, rfl⟩
theorem EncodeShape.outTraceLo : ∀ v, EncodeShape.Statement (.outTraceLo v) := fun _ => ⟨rfl, rfl⟩
theorem EncodeShape.inTraceHi : EncodeShape.Statement (.inTraceHi) := ⟨rfl, rfl⟩
theorem EncodeShape.outTraceHi : ∀ v, EncodeShape.Statement (.outTraceHi v) := fun _ => ⟨rfl, rfl⟩
theorem EncodeShape.inUnmapped : ∀ p, EncodeShape.Statement (.inUnmapped p) := fun _ => ⟨rfl, rfl⟩
theorem EncodeShape.outUnmapped : ∀ p v, EncodeShape.Statement (.outUnmapped p v) := fun _ _ => ⟨rfl, rfl⟩
theorem EncodeShape.modeset : ∀ v, EncodeShape.Statement (.modeset v) := fun _ => ⟨rfl, rfl⟩
theorem EncodeShape.bsr : ∀ ign n b, EncodeShape.Statement (.bsr ign n b) := fun _ _ _ => ⟨rfl, rfl⟩
theorem EncodeShape.pfxDd : EncodeShape.Statement (.pfxDd) := ⟨rfl, rfl⟩
theorem EncodeShape.pfxFd : EncodeShape.Statement (.pfxFd) := ⟨rfl, rfl⟩
theorem EncodeShape.pfxCb : EncodeShape.Statement (.pfxCb) := ⟨rfl, rfl⟩
theorem EncodeShape.pfxEd : EncodeShape.Statement (.pfxEd) := ⟨rfl, rfl⟩
theorem EncodeShape.opcReti : EncodeShape.Statement (.opcReti) := ⟨rfl, rfl⟩
theorem EncodeShape.otherIdle : ∀ b, EncodeShape.Statement (.otherIdle b) := fun _ => ⟨rfl, rfl⟩
theorem EncodeShape.otherSawed : ∀ b, EncodeShape.Statement (.otherSawed b) := fun _ => ⟨rfl, rfl⟩
theorem EncodeShape.memrBase : ∀ off, EncodeShape.Statement (.memrBase off) := fun _ => ⟨rfl, rfl⟩
theorem EncodeShape.memrExt : ∀ off, EncodeShape.Statement (.memrExt off) := fun _ => ⟨rfl, rfl⟩
theorem EncodeShape.memwBase : ∀ off v, EncodeShape.Statement (.memwBase off v) := fun _ _ => ⟨rfl, rfl⟩
theorem EncodeShape.memwExt : ∀ off v, EncodeShape.Statement (.memwExt off v) := fun _ _ => ⟨rfl, rfl⟩
theorem EncodeShape.physRead : ∀ a, EncodeShape.Statement (.physRead a) := fun _ => ⟨rfl, rfl⟩
theorem EncodeShape.physWrite : ∀ a v, EncodeShape.Statement (.physWrite a v) := fun _ _ => ⟨rfl, rfl⟩
theorem EncodeShape.virtRead : ∀ va quiet, EncodeShape.Statement (.virtRead va quiet) := fun _ _ => ⟨rfl, rfl⟩
theorem EncodeShape.virtWrite : ∀ va v, EncodeShape.Statement (.virtWrite va v) := fun _ _ => ⟨rfl, rfl⟩
theorem EncodeShape.cpuMemRead : ∀ va m1, EncodeShape.Statement (.cpuMemRead va m1) := fun _ _ => ⟨rfl, rfl⟩
theorem EncodeShape.cpuMemWrite : ∀ va v, EncodeShape.Statement (.cpuMemWrite va v) := fun _ _ => ⟨rfl, rfl⟩
theorem EncodeShape.portRead : ∀ addr, EncodeShape.Statement (.portRead addr) := fun _ => ⟨rfl, rfl⟩
theorem EncodeShape.portWrite : ∀ addr v, EncodeShape.Statement (.portWrite addr v) := fun _ _ => ⟨rfl, rfl⟩
theorem EncodeShape.csRecalc : EncodeShape.Statement (.csRecalc) := ⟨rfl, rfl⟩
theorem EncodeShape.fetchObserve : ∀ b, EncodeShape.Statement (.fetchObserve b) := fun _ => ⟨rfl, rfl⟩
theorem EncodeShape.nonfetch : EncodeShape.Statement (.nonfetch) := ⟨rfl, rfl⟩
theorem EncodeShape.retiEvent : EncodeShape.Statement (.retiEvent) := ⟨rfl, rfl⟩
theorem EncodeShape.repoll : EncodeShape.Statement (.repoll) := ⟨rfl, rfl⟩
theorem EncodeShape.recalcReq : EncodeShape.Statement (.recalcReq) := ⟨rfl, rfl⟩
theorem EncodeShape.recalcSvc : ∀ iff1 iff2, EncodeShape.Statement (.recalcSvc iff1 iff2) := fun _ _ => ⟨rfl, rfl⟩
theorem EncodeShape.rev8 : ∀ b, EncodeShape.Statement (.rev8 b) := fun _ => ⟨rfl, rfl⟩
theorem EncodeShape.spiExchange : ∀ b, EncodeShape.Statement (.spiExchange b) := fun _ => ⟨rfl, rfl⟩
theorem EncodeShape.reset (p : ResetParams) : EncodeShape.Statement (.reset p) :=
  by
  refine ⟨rfl, ?_⟩
  show (_ ++ p.image.flatMap encodeImageByte).length = _
  rw [List.length_append, image_length]
  rfl

end Sys2Proof.Laws
end

