-- ==== Sys2Proof/Laws/Step.lean ====
section
/-! SUPPORT. What a step can do, once, and whose turn it is. -/

namespace Sys2Proof.Machine

theorem finished_next (q : Asked) (i : Instr) (s : State) (r : Result) (t : State) :
    finished q i s r = .next t ↔ ∃ u, r = .next u ∧ t = u.finish (cpuAfter q i s u) := by
  cases r with
  | next u =>
    constructor
    · intro h
      cases h
      exact ⟨u, rfl, rfl⟩
    · rintro ⟨_, h, rfl⟩
      cases h
      rfl
  | fault f => exact nomatch f
  | refused x => exact ⟨fun h => (nomatch h), fun ⟨_, h, _⟩ => (nomatch h)⟩

/-- A request waits exactly where it decodes to an operation out of turn. -/
theorem waits_iff (s : State) (q : Asked) :
    s.waits q = true ↔ ∃ i, decode s.ctx q.request = .ok i ∧ s.inTurn q.dma i = false := by
  unfold State.waits
  split <;> simp_all

/-- Requests that wait are passed over by the step. -/
theorem dropWhile_waits (s : State) (waiting rest : List Asked) (h : ∀ w ∈ waiting, s.waits w = true) :
    (waiting ++ rest).dropWhile s.waits = rest.dropWhile s.waits := by
  induction waiting with
  | nil => rfl
  | cons w ws ih => simp [h w (by simp), ih fun x hx => h x (by simp [hx])]

/-- Requests that wait are kept by the step. -/
theorem takeWhile_waits (s : State) (waiting rest : List Asked) (h : ∀ w ∈ waiting, s.waits w = true) :
    (waiting ++ rest).takeWhile s.waits = waiting ++ rest.takeWhile s.waits := by
  induction waiting with
  | nil => rfl
  | cons w ws ih => simp [h w (by simp), ih fun x hx => h x (by simp [hx])]

/-- A step with the oldest request in turn, in terms of that request. -/
theorem step_eq (s : State) (waiting : List Asked) (q : Asked) (rest : List Asked) (hp : s.pending = waiting ++ q :: rest)
    (hw : ∀ w ∈ waiting, s.waits w = true) (hq : s.waits q = false) :
    step s = match decode s.ctx q.request with
      | .error e => .refused (.undecodable e)
      | .ok i => finished q i s (exec i (s.takeRequest (waiting ++ rest))) := by
  unfold step
  rw [hp, dropWhile_waits s _ _ hw, takeWhile_waits s _ _ hw]
  cases hd : decode s.ctx q.request <;> simp [hq, hd]

/-- A step that goes on either found every request waiting, or performed the oldest one that does not wait. -/
theorem step_next (s t : State) (h : step s = .next t) :
    ((∀ q ∈ s.pending, s.waits q = true) ∧ t = s) ∨
    ∃ waiting q rest i u, s.pending = waiting ++ q :: rest ∧ (∀ w ∈ waiting, s.waits w = true) ∧
      decode s.ctx q.request = .ok i ∧ s.inTurn q.dma i = true ∧
      exec i (s.takeRequest (waiting ++ rest)) = .next u ∧ t = u.finish (cpuAfter q i s u) := by
  unfold step at h
  split at h
  · next hd => exact .inl ⟨by simpa [List.dropWhile_eq_nil_iff] using hd, by cases h; rfl⟩
  · next q rest hd =>
    split at h
    · cases h
    · next i hi =>
      obtain ⟨u, hu, ht⟩ := (finished_next _ _ _ _ _).1 h
      have hq : s.waits q = false := by
        have := List.head?_dropWhile_not s.waits s.pending
        rw [hd] at this
        simpa using this
      refine .inr ⟨_, q, rest, i, u, ?_, fun w hw => List.mem_takeWhile_imp hw, hi, ?_, hu, ht⟩
      · rw [← hd, List.takeWhile_append_dropWhile]
      · simpa [State.waits, hi] using hq

/-- A service is in turn exactly at an instruction boundary. -/
theorem inTurn_recalcSvc (s : State) (dma iff1 iff2 : Bool) :
    s.inTurn dma (.recalcSvc iff1 iff2) = true ↔ s.cpuAt = .boundary := by simp [State.inTurn, askedBy]

/-- An operation that is neither the scheduler's nor the DMA engine's is in turn everywhere. -/
theorem inTurn_other (s : State) (dma : Bool) (i : Instr) (hs : askedBy dma i ≠ .scheduler) (hd : askedBy dma i ≠ .dma) :
    s.inTurn dma i = true := by
  unfold State.inTurn
  split <;> simp_all

/-- Only the service is the scheduler's. -/
theorem askedBy_scheduler (dma : Bool) (i : Instr) :
    askedBy dma i = .scheduler ↔ ∃ iff1 iff2, i = .recalcSvc iff1 iff2 := by
  cases i <;> cases dma <;> simp [askedBy] <;> split <;> simp

/-- Only an access marked as the DMA engine's is its. -/
theorem askedBy_dma (i : Instr) : askedBy false i ≠ .dma := by
  cases i <;> simp [askedBy]
  split <;> simp

/-- Where the CPU stands after an operation of another agent. -/
theorem cpuAfter_other (q : Asked) (i : Instr) (s t : State) (h : askedBy q.dma i ≠ .cpu) :
    cpuAfter q i s t = s.cpuAt := by simp [cpuAfter, h]

/-- Where the CPU stands after its opcode fetch. -/
theorem cpuAfter_fetch (q : Asked) (i : Instr) (s t : State) (b : Byte) (h : askedBy q.dma i = .cpu)
    (hb : fetchedByte i s = some b) : cpuAfter q i s t = s.cpuAt.afterFetch q.ends b := by simp [cpuAfter, h, hb]

end Sys2Proof.Machine
end

