-- ==== Sys2Proof/Tests/Slice0.lean ====
section
/-! SUPPORT. Tests of the model against values worked out by hand from the spec: the well-formedness smoke test, one word
written out bit by bit for every operation, single steps from the vectors of 95_test_vectors.md, and for every statement
with hypotheses a state and operands that meet them. -/

namespace Sys2Proof.Machine.Tests

/-! ## Helpers -/

/-- No answers fixed. -/
def noAnswers : Answers := ⟨[], [], [], [], [], [], [], [], []⟩

/-- The premises of 95_test_vectors.md: no IDE device, no SPI device, nothing claimed for the next access. -/
def base : State := { State.reset with params := ⟨false, false, .idle, false⟩, answers := { noAnswers with claims := [false] } }

/-- `base` with an IDE device. -/
def ideBase : State := { base with params := ⟨true, false, .idle, false⟩ }

/-- The premises of V-MEM, with a value of port A. -/
def memBase (portA : Byte) : State :=
  { base with
    portA := portA
    ram := [(0x00000, 0x11), (0x01234, 0x5A), (0x7FFFF, 0x22), (0x80000, 0x33), (0xFFFFF, 0x44)]
    rom := [(0x00000, 0xF3), (0x01234, 0xC9), (0x7FFFF, 0x76)] }

/-- The premises of V-PPIR, with a value of the control register. -/
def readBase (ctrl : Byte) : State := { base with portA := 0x0C, portB := 0x33, portC := 0x5A, cs := 2, ctrl := ctrl }

/-- A state with a port C value whose select is cached. -/
def portCBase (v : Byte) : State := { base with portC := v, cs := v.extractLsb' 0 3, ctrl := 0x80 }

/-- A state with the two flags, and the answer of the next poll. -/
def irqBase (recalc live raised : Bool) : State :=
  { base with recalc := recalc, liveIrq := live, answers := { noAnswers with poll := [raised] } }

/-- A state whose RAM holds one byte at 0x8000, whose next translation is 0x8000, with a detector state and a next poll
that answers no. -/
def fetchBase (det : Det) (b : Byte) : State :=
  { base with
    portA := 0x00, det := det, liveIrq := true, ram := [(0x8000, b)]
    answers := { noAnswers with translate := [0x8000, 0x8000], poll := [false] } }

/-- The state that an outcome reaches. -/
def after (r : Result) : State :=
  match r with
  | .next t => t
  | .fault _ => State.reset
  | .refused _ => State.reset

/-- Does an outcome reach a state? -/
def completes (r : Result) : Bool :=
  match r with
  | .next _ => true
  | .fault _ => false
  | .refused _ => false

/-- The contexts of the decoder: without and with an IDE device, detector in `Idle`; and detector in `SawPrefixED`. -/
def ctx0 : DecodeCtx := ⟨false, .idle, false⟩
def ctxIde : DecodeCtx := ⟨true, .idle, false⟩
def ctxSaw : DecodeCtx := ⟨false, .sawPrefixED, false⟩
def ctxStarted : DecodeCtx := ⟨false, .idle, true⟩

/-- Reset parameters of the recommended instance (R304), loading one byte of each array and one of them twice. -/
def resetExample : ResetParams :=
  ⟨0x1234, 0x08, 0x01, 0x05, 0x9B, 0xA5, [.rom 0 0x00, .ram 0xFFFFF 0x77, .rom 0 0xF3, .rom 0x7FFFF 0x76]⟩

/-! ## Well-formedness: for each check an operation that it refuses (R93, R96, R98, R302) -/

theorem test_wf_refuses_inIde_without_device : ¬ WellFormed ctx0 (.inIde 0) := by decide
theorem test_wf_refuses_outIde_without_device : ¬ WellFormed ctx0 (.outIde 7 0) := by decide
theorem test_wf_refuses_inUnmapped_of_a_mapped_port : ¬ WellFormed ctx0 (.inUnmapped 0x78) := by decide
theorem test_wf_refuses_outUnmapped_of_a_mapped_port : ¬ WellFormed ctx0 (.outUnmapped 0x0D 1) := by decide
theorem test_wf_refuses_inUnmapped_of_an_ide_port : ¬ WellFormed ctxIde (.inUnmapped 0x10) := by decide
theorem test_wf_accepts_inUnmapped_of_an_absent_ide_port : WellFormed ctx0 (.inUnmapped 0x10) := by decide
theorem test_wf_refuses_modeset_without_bit7 : ¬ WellFormed ctx0 (.modeset 0x7F) := by decide
theorem test_wf_refuses_pfxDd_after_ed : ¬ WellFormed ctxSaw .pfxDd := by decide
theorem test_wf_refuses_pfxFd_after_ed : ¬ WellFormed ctxSaw .pfxFd := by decide
theorem test_wf_refuses_pfxCb_after_ed : ¬ WellFormed ctxSaw .pfxCb := by decide
theorem test_wf_refuses_pfxEd_after_ed : ¬ WellFormed ctxSaw .pfxEd := by decide
theorem test_wf_refuses_opcReti_from_idle : ¬ WellFormed ctx0 .opcReti := by decide
theorem test_wf_refuses_otherIdle_after_ed : ¬ WellFormed ctxSaw (.otherIdle 0) := by decide
theorem test_wf_refuses_otherIdle_of_a_prefix : ¬ WellFormed ctx0 (.otherIdle 0xCB) := by decide
theorem test_wf_refuses_otherSawed_from_idle : ¬ WellFormed ctx0 (.otherSawed 0) := by decide
theorem test_wf_refuses_otherSawed_of_4d : ¬ WellFormed ctxSaw (.otherSawed 0x4D) := by decide
theorem test_wf_refuses_physRead_of_33_bits : ¬ WellFormed ctx0 (.physRead (2 ^ 32)) := by decide
theorem test_wf_refuses_physWrite_of_33_bits : ¬ WellFormed ctx0 (.physWrite (2 ^ 32) 0) := by decide
theorem test_wf_refuses_reset_after_start : ¬ WellFormed ctxStarted (.reset resetExample) := by decide

/-! ## Decoding: a word of each row written out from R91 to R98 and the table (operand bytes as log entry 2 lays them) -/

theorem test_decode_inClaimed : decode ctx0 ⟨.port16 .read, [0b00001101#8, 0b00010010#8]⟩ = .ok (.inClaimed 0x120D) := by decide
theorem test_decode_outClaimed :
    decode ctx0 ⟨.port16 .write, [0b00110100#8, 0b00000000#8, 0x99]⟩ = .ok (.outClaimed 0x0034 0x99) := by decide
theorem test_decode_inIde : decode ctxIde ⟨.port8 .read, [0b00010111#8]⟩ = .ok (.inIde 7) := by decide
theorem test_decode_outIde : decode ctxIde ⟨.port8 .write, [0b00010000#8, 0xE0]⟩ = .ok (.outIde 0 0xE0) := by decide
theorem test_decode_inFdc : decode ctx0 ⟨.port8 .read, [0b01110100#8]⟩ = .ok (.inFdc 4) := by decide
theorem test_decode_outFdc : decode ctx0 ⟨.port8 .write, [0b01110010#8, 0x1C]⟩ = .ok (.outFdc 2 0x1C) := by decide
theorem test_decode_inPpiA : decode ctx0 ⟨.port8 .read, [0b01111000#8]⟩ = .ok (.inPpiA 0) := by decide
theorem test_decode_inPpiB : decode ctx0 ⟨.port8 .read, [0b01111101#8]⟩ = .ok (.inPpiB 1) := by decide
theorem test_decode_inPpiC : decode ctx0 ⟨.port8 .read, [0b01111010#8]⟩ = .ok (.inPpiC 0) := by decide
theorem test_decode_inPpiCtrl : decode ctx0 ⟨.port8 .read, [0b01111111#8]⟩ = .ok (.inPpiCtrl 1) := by decide
theorem test_decode_outPpiA : decode ctx0 ⟨.port8 .write, [0b01111100#8, 0x04]⟩ = .ok (.outPpiA 1 0x04) := by decide
theorem test_decode_outPpiB : decode ctx0 ⟨.port8 .write, [0b01111001#8, 0x33]⟩ = .ok (.outPpiB 0 0x33) := by decide
theorem test_decode_outPpiC : decode ctx0 ⟨.port8 .write, [0b01111110#8, 0x13]⟩ = .ok (.outPpiC 1 0x13) := by decide
theorem test_decode_outPpiCtrl : decode ctx0 ⟨.port8 .write, [0b01111011#8, 0x09]⟩ = .ok (.outPpiCtrl 0 0x09) := by decide
theorem test_decode_inLed : decode ctx0 ⟨.port8 .read, [0b00001101#8]⟩ = .ok .inLed := by decide
theorem test_decode_outLed : decode ctx0 ⟨.port8 .write, [0b00001101#8, 0xA5]⟩ = .ok (.outLed 0xA5) := by decide
theorem test_decode_inTraceLo : decode ctx0 ⟨.port8 .read, [0b11111101#8]⟩ = .ok .inTraceLo := by decide
theorem test_decode_outTraceLo : decode ctx0 ⟨.port8 .write, [0b11111101#8, 0x03]⟩ = .ok (.outTraceLo 0x03) := by decide
theorem test_decode_inTraceHi : decode ctx0 ⟨.port8 .read, [0b11111110#8]⟩ = .ok .inTraceHi := by decide
theorem test_decode_outTraceHi : decode ctx0 ⟨.port8 .write, [0b11111110#8, 0x12]⟩ = .ok (.outTraceHi 0x12) := by decide
theorem test_decode_inUnmapped : decode ctx0 ⟨.port8 .read, [0b00010000#8]⟩ = .ok (.inUnmapped 0x10) := by decide
theorem test_decode_outUnmapped : decode ctx0 ⟨.port8 .write, [0b10000000#8, 0x12]⟩ = .ok (.outUnmapped 0x80 0x12) := by decide
theorem test_decode_modeset : decode ctx0 ⟨.ppicw, [0b10011011#8]⟩ = .ok (.modeset 0x9B) := by decide
theorem test_decode_bsr : decode ctx0 ⟨.ppicw, [0b01111001#8]⟩ = .ok (.bsr 7 4 true) := by decide
theorem test_decode_pfxDd : decode ctx0 ⟨.fetch8, [0b11011101#8]⟩ = .ok .pfxDd := by decide
theorem test_decode_pfxFd : decode ctx0 ⟨.fetch8, [0b11111101#8]⟩ = .ok .pfxFd := by decide
theorem test_decode_pfxCb : decode ctx0 ⟨.fetch8, [0b11001011#8]⟩ = .ok .pfxCb := by decide
theorem test_decode_pfxEd : decode ctx0 ⟨.fetch8, [0b11101101#8]⟩ = .ok .pfxEd := by decide
theorem test_decode_opcReti : decode ctxSaw ⟨.fetch8, [0b01001101#8]⟩ = .ok .opcReti := by decide
theorem test_decode_otherIdle : decode ctx0 ⟨.fetch8, [0b01001101#8]⟩ = .ok (.otherIdle 0x4D) := by decide
theorem test_decode_otherSawed : decode ctxSaw ⟨.fetch8, [0b11101101#8]⟩ = .ok (.otherSawed 0xED) := by decide
theorem test_decode_memrBase :
    decode ctx0 ⟨.pa20 .read, [0b11111111#8, 0b11111111#8, 0b00000111#8]⟩ = .ok (.memrBase 0x7FFFF) := by decide
theorem test_decode_memrExt :
    decode ctx0 ⟨.pa20 .read, [0b00110100#8, 0b00010010#8, 0b00001000#8]⟩ = .ok (.memrExt 0x01234) := by decide
theorem test_decode_memwBase :
    decode ctx0 ⟨.pa20 .write, [0b00110100#8, 0b00010010#8, 0b00000000#8, 0xAA]⟩ = .ok (.memwBase 0x01234 0xAA) := by decide
theorem test_decode_memwExt :
    decode ctx0 ⟨.pa20 .write, [0b11111111#8, 0b11111111#8, 0b00001111#8, 0x99]⟩ = .ok (.memwExt 0x7FFFF 0x99) := by decide
theorem test_decode_physRead : decode ctx0 ⟨.event .physRead, [0x00, 0x00, 0x18, 0x00]⟩ = .ok (.physRead 0x180000) := by decide
theorem test_decode_physWrite :
    decode ctx0 ⟨.event .physWrite, [0xFF, 0xFF, 0x1F, 0x00, 0x98]⟩ = .ok (.physWrite 0x1FFFFF 0x98) := by decide
theorem test_decode_virtRead : decode ctx0 ⟨.event .virtRead, [0x00, 0x80, 0x01]⟩ = .ok (.virtRead 0x8000 true) := by decide
theorem test_decode_virtWrite :
    decode ctx0 ⟨.event .virtWrite, [0x00, 0x01, 0xAA]⟩ = .ok (.virtWrite 0x0100 0xAA) := by decide
theorem test_decode_cpuMemRead :
    decode ctx0 ⟨.event .cpuMemRead, [0x39, 0x00, 0x01]⟩ = .ok (.cpuMemRead 0x0039 true) := by decide
theorem test_decode_cpuMemWrite :
    decode ctx0 ⟨.event .cpuMemWrite, [0xFE, 0xFF, 0x01]⟩ = .ok (.cpuMemWrite 0xFFFE 0x01) := by decide
theorem test_decode_portRead : decode ctx0 ⟨.event .portRead, [0x78, 0x12]⟩ = .ok (.portRead 0x1278) := by decide
theorem test_decode_portWrite :
    decode ctx0 ⟨.event .portWrite, [0x7B, 0x00, 0x09]⟩ = .ok (.portWrite 0x007B 0x09) := by decide
theorem test_decode_csRecalc : decode ctx0 ⟨.event .csRecalc, []⟩ = .ok .csRecalc := by decide
theorem test_decode_fetchObserve : decode ctx0 ⟨.event .fetchObserve, [0xED]⟩ = .ok (.fetchObserve 0xED) := by decide
theorem test_decode_nonfetch : decode ctx0 ⟨.event .nonfetch, []⟩ = .ok .nonfetch := by decide
theorem test_decode_retiEvent : decode ctx0 ⟨.event .retiEvent, []⟩ = .ok .retiEvent := by decide
theorem test_decode_repoll : decode ctx0 ⟨.event .repoll, []⟩ = .ok .repoll := by decide
theorem test_decode_recalcReq : decode ctx0 ⟨.event .recalcReq, []⟩ = .ok .recalcReq := by decide
theorem test_decode_recalcSvc :
    decode ctx0 ⟨.event .recalcSvc, [0b00000010#8]⟩ = .ok (.recalcSvc false true) := by decide
theorem test_decode_rev8 : decode ctx0 ⟨.event .rev8, [0x4D]⟩ = .ok (.rev8 0x4D) := by decide
theorem test_decode_spiExchange : decode ctx0 ⟨.event .spiExchange, [0x40]⟩ = .ok (.spiExchange 0x40) := by decide
theorem test_decode_reset :
    decode ctx0 ⟨.event .reset, [0x34, 0x12, 0x08, 0x01, 0x05, 0x9B, 0xA5,
      0xFF, 0xFF, 0b10000111#8, 0x76, 0xFF, 0xFF, 0b00001111#8, 0x77]⟩ =
    .ok (.reset ⟨0x1234, 0x08, 0x01, 0x05, 0x9B, 0xA5, [.rom 0x7FFFF 0x76, .ram 0xFFFFF 0x77]⟩) := by decide

/-! The decoder's rejections, by name. -/

theorem test_decode_rejects_missing_operand : decode ctx0 ⟨.port8 .write, [0x78]⟩ = .error .wrongLength := by decide
theorem test_decode_rejects_a_flag_of_two : decode ctx0 ⟨.event .virtRead, [0x00, 0x80, 0x02]⟩ = .error .notABit := by decide
theorem test_decode_rejects_flags_above_bit_1 : decode ctx0 ⟨.event .recalcSvc, [0x04]⟩ = .error .notABit := by decide
theorem test_decode_rejects_a_21_bit_address :
    decode ctx0 ⟨.pa20 .read, [0x00, 0x00, 0x10]⟩ = .error .tooWide := by decide
theorem test_decode_rejects_a_wide_image_index :
    decode ctx0 ⟨.event .reset, [0, 0, 0, 0, 0, 0, 0, 0x00, 0x00, 0x88, 0x00]⟩ = .error .tooWide := by decide
theorem test_decode_rejects_a_second_reset :
    decode ctxStarted ⟨.event .reset, [0, 0, 0, 0, 0, 0, 0]⟩ = .error .resetAfterStart := by decide

/-! Encoding writes the spec's bits: the two ends of the encoder's larger fields. -/

theorem test_encode_bsr : encode (.bsr 0 4 true) = ⟨.ppicw, [0x09]⟩ := by decide
theorem test_encode_memwExt : encode (.memwExt 0 0x66) = ⟨.pa20 .write, [0x00, 0x00, 0x08, 0x66]⟩ := by decide
theorem test_pseudo_setC : pseudoSetC 4 = .portWrite 0x007B 0x09 := by decide
theorem test_pseudo_clrC : pseudoClrC 1 = .portWrite 0x007B 0x02 := by decide
theorem test_pseudo_bank : pseudoBank 0x0C = .portWrite 0x0078 0x0C := by decide
theorem test_pseudo_mode : pseudoMode 0x9B = .portWrite 0x007B 0x9B := by decide
theorem test_pseudo_reti : pseudoReti 0x8000 = [.cpuMemRead 0x8000 true, .cpuMemRead 0x8001 true] := by decide

/-! The opcode table's words (log entry 3). -/

theorem test_table_word_ide : decodeTableWord 8 0x10 = some (.inIde 0) := by decide
theorem test_table_word_ppi : decodeTableWord 8 0x7B = some (.inPpiCtrl 0) := by decide
theorem test_table_word_runs_first : completes (step (State.reset.withFetchWord 8 0x78)) = true := by decide

/-! ## One step of each operation, expected values from the vectors and examples of the spec -/

/-- IN.CLAIMED, R153: the controller's answer to the whole address (P4 line 11). -/
theorem test_inClaimed :
    (after (exec (.inClaimed 0x0034) { base with answers := { noAnswers with ctlRead := [0xC7] } })).ret = some 0xC7 := by
  decide
/-- OUT.CLAIMED, R154: the call, and no latch of the block (V-PORT). -/
theorem test_outClaimed :
    (after (exec (.outClaimed 0x000D 0x99) { base with answers := { noAnswers with ctlWrite := [true] } })).history =
      [.ctlWrite 0x000D 0x99] ∧
    (after (exec (.outClaimed 0x000D 0x99) { base with answers := { noAnswers with ctlWrite := [true] } })).led = 0x00 := by
  decide
/-- OUT.CLAIMED, R240: the controller calls `RecalcRequest` inside the write. -/
theorem test_outClaimed_requests :
    (after (exec (.outClaimed 0x000D 0x99) { base with answers := { noAnswers with ctlWrite := [true] } })).recalc =
      true := by decide
/-- IN.IDE, R156: `PortRead(0x0017)` calls `ext.IdeRead(7)`. -/
theorem test_inIde :
    (after (exec (.inIde 7) { ideBase with answers := { noAnswers with ideRead := [0x50] } })).ret = some 0x50 := by decide
/-- OUT.IDE, R157: `PortWrite(0x0010, 0xE0)` calls `ext.IdeWrite(0, 0xE0)`. -/
theorem test_outIde : (after (exec (.outIde 0 0xE0) ideBase)).history = [.ideWrite 0 0xE0] := by decide
/-- IN.FDC, R159: `PortRead(0x0074)` calls `ext.FdcRead(4)`. -/
theorem test_inFdc :
    (after (exec (.inFdc 4) { base with answers := { noAnswers with fdcRead := [0x80] } })).ret = some 0x80 := by decide
/-- OUT.FDC, R160: `PortWrite(0x0072, 0x1C)` calls `ext.FdcWrite(2, 0x1C)`. -/
theorem test_outFdc :
    (after (exec (.outFdc 2 0x1C) { base with answers := { noAnswers with fdcWrite := [false] } })).history =
      [.fdcWrite 2 0x1C] := by decide
/-- IN.PPI_A, V-PPIR: an output reads the latch, an input 0xFF. -/
theorem test_inPpiA :
    (after (exec (.inPpiA 0) (readBase 0x80))).ret = some 0x0C ∧
    (after (exec (.inPpiA 1) (readBase 0x90))).ret = some 0xFF := by decide
/-- IN.PPI_B, V-PPIR. -/
theorem test_inPpiB :
    (after (exec (.inPpiB 0) (readBase 0x90))).ret = some 0x33 ∧
    (after (exec (.inPpiB 0) (readBase 0x82))).ret = some 0xFF := by decide
/-- IN.PPI_C, V-PPIR: nibble by nibble. -/
theorem test_inPpiC_lower :
    (after (exec (.inPpiC 0) (readBase 0x81))).ret = some 0x5F := by decide
theorem test_inPpiC_upper : (after (exec (.inPpiC 0) (readBase 0x88))).ret = some 0xFA := by decide
/-- IN.PPI_CTRL, V-PPIR: the whole byte. -/
theorem test_inPpiCtrl : (after (exec (.inPpiCtrl 0) (readBase 0xE4))).ret = some 0xE4 := by decide
/-- OUT.PPI_A, P1 line 17: the alias 0x7C writes the bank control register. -/
theorem test_outPpiA : (after (exec (.outPpiA 1 0x04) (portCBase 0x05))).portA = 0x04 := by decide
theorem test_outPpiA_no_event : (after (exec (.outPpiA 0 0x00) (portCBase 0x05))).history = [] := by decide
/-- OUT.PPI_B, V-CS: no event. -/
theorem test_outPpiB :
    (after (exec (.outPpiB 0 0xFF) (portCBase 0x05))).portB = 0xFF ∧
    (after (exec (.outPpiB 0 0xFF) (portCBase 0x05))).history = [] := by decide
/-- OUT.PPI_C, S4: 3 to 0 fires one lower event, 0 to 5 one raise event, 5 to 3 none. -/
theorem test_outPpiC :
    (after (exec (.outPpiC 0 0x00) (portCBase 0x03))).history = [.csLower] ∧
    (after (exec (.outPpiC 0 0x05) (portCBase 0x00))).history = [.csRaise] ∧
    (after (exec (.outPpiC 0 0x03) (portCBase 0x05))).history = [] := by decide
theorem test_outPpiC_cache :
    (after (exec (.outPpiC 0 0x08) (portCBase 0x07))).cs = 0 ∧
    (after (exec (.outPpiC 0 0x08) (portCBase 0x07))).portC = 0x08 := by decide
/-- OUT.PPI_CTRL, S8: 0x09 sets bit 4 of port C only. -/
theorem test_outPpiCtrl_bit :
    (after (exec (.outPpiCtrl 0 0x09) (portCBase 0x03))).portC = 0x13 ∧
    (after (exec (.outPpiCtrl 0 0x09) (portCBase 0x03))).ctrl = 0x80 := by decide
/-- OUT.PPI_CTRL, V-PPIW row 0x9B. -/
theorem test_outPpiCtrl_mode :
    (after (exec (.outPpiCtrl 0 0x9B) (portCBase 0xA5))).ctrl = 0x9B ∧
    (after (exec (.outPpiCtrl 0 0x9B) (portCBase 0xA5))).portC = 0xA5 := by decide
/-- IN.LED, R165. -/
theorem test_inLed : (after (exec .inLed { base with led := 0xA5 })).ret = some 0xFF := by decide
/-- OUT.LED, R166. -/
theorem test_outLed : (after (exec (.outLed 0xA5) base)).led = 0xA5 := by decide
/-- IN.TRACE_LO, R167. -/
theorem test_inTraceLo : (after (exec .inTraceLo { base with trace := 0x1234 })).ret = some 0xFF := by decide
/-- OUT.TRACE_LO, R168's example. -/
theorem test_outTraceLo : (after (exec (.outTraceLo 0x03) { base with trace := 0x0100 })).trace = 0x0103 := by decide
/-- IN.TRACE_HI, R169. -/
theorem test_inTraceHi : (after (exec .inTraceHi { base with trace := 0x1234 })).ret = some 0xFF := by decide
/-- OUT.TRACE_HI, R170's example. -/
theorem test_outTraceHi : (after (exec (.outTraceHi 0x00) { base with trace := 0x0103 })).trace = 0x0003 := by decide
/-- IN.UNMAPPED, R171. -/
theorem test_inUnmapped : (after (exec (.inUnmapped 0x00) base)).ret = some 0xFF := by decide
/-- OUT.UNMAPPED, R172. -/
theorem test_outUnmapped : (after (exec (.outUnmapped 0x80 0x12) base)).portA = 0x08 := by decide
/-- MODESET, V-PPIW row 0xFF. -/
theorem test_modeset : (after (exec (.modeset 0xFF) (portCBase 0xA5))).ctrl = 0xFF := by decide
theorem test_modeset_keeps_portC : (after (exec (.modeset 0xFF) (portCBase 0xA5))).portC = 0xA5 := by decide
/-- BSR, V-PPIW rows 0x7E and 0x00: bits 6:4 ignored; 5 to 4 fires nothing. -/
theorem test_bsr_ignores_bits :
    (after (exec (.bsr 7 7 false) (portCBase 0xA5))).portC = 0x25 := by decide
theorem test_bsr_select :
    (after (exec (.bsr 0 0 false) (portCBase 0xA5))).cs = 4 ∧
    (after (exec (.bsr 0 0 false) (portCBase 0x01))).history = [.csLower] := by decide
/-- PFX_DD, R231. -/
theorem test_pfxDd : (after (exec .pfxDd base)).det = .idle := by decide
/-- PFX_FD, R231. -/
theorem test_pfxFd : (after (exec .pfxFd base)).det = .idle := by decide
/-- PFX_CB, R231. -/
theorem test_pfxCb : (after (exec .pfxCb base)).det = .idle := by decide
/-- PFX_ED, R232. -/
theorem test_pfxEd : (after (exec .pfxEd base)).det = .sawPrefixED := by decide
/-- OPC_RETI, V-IRQ: the RETI event, the poll answering no, then yes. -/
theorem test_opcReti_no :
    (after (exec .opcReti { irqBase false true false with det := .sawPrefixED })).liveIrq = false := by decide
theorem test_opcReti_yes :
    (after (exec .opcReti { irqBase true true true with det := .sawPrefixED })).liveIrq = true ∧
    (after (exec .opcReti { irqBase true true true with det := .sawPrefixED })).recalc = true := by decide
/-- OTHER.IDLE, R233: 0x4D from `Idle` is no return. -/
theorem test_otherIdle : (after (exec (.otherIdle 0x4D) (irqBase false true false))).liveIrq = true := by decide
/-- OTHER.SAWED, R235: a second 0xED returns to `Idle`. -/
theorem test_otherSawed :
    (after (exec (.otherSawed 0xED) { irqBase false true false with det := .sawPrefixED })).det = .idle := by decide
/-- MEMR.BASE, V-MEM. -/
theorem test_memrBase :
    (after (exec (.memrBase 0x7FFFF) (memBase 0x08))).ret = some 0x76 ∧
    (after (exec (.memrBase 0x7FFFF) (memBase 0x04))).ret = some 0x22 := by decide
/-- MEMR.EXT, V-MEM. -/
theorem test_memrExt :
    (after (exec (.memrExt 0x7FFFF) (memBase 0x08))).ret = some 0xFF ∧
    (after (exec (.memrExt 0x7FFFF) (memBase 0x0C))).ret = some 0x44 := by decide
/-- MEMW.BASE, V-MEM: under ROM nothing is stored. -/
theorem test_memwBase :
    (after (exec (.memwBase 0 0xAA) (memBase 0x08))).ramAt 0 = 0x11 ∧
    (after (exec (.memwBase 0 0xAA) (memBase 0x00))).ramAt 0 = 0xAA := by decide
/-- MEMW.EXT, V-MEM. -/
theorem test_memwExt :
    (after (exec (.memwExt 0 0x77) (memBase 0x08))).ramAt 0x80000 = 0x33 ∧
    (after (exec (.memwExt 0x7FFFF 0x99) (memBase 0x04))).ramAt 0xFFFFF = 0x99 := by decide
/-- PHYS_READ, V-MEM: masked to 20 bits. -/
theorem test_physRead :
    (after (exec (.physRead 0x100000) (memBase 0x00))).ret = some 0x11 ∧
    (after (exec (.physRead 0x180000) (memBase 0x00))).ret = some 0xFF := by decide
theorem test_physRead_other_bits :
    (after (exec (.physRead 0x01234) (memBase 0xF7))).ret = some 0x5A ∧
    (after (exec (.physRead 0x01234) (memBase 0xFB))).ret = some 0xC9 := by decide
/-- PHYS_WRITE, V-MEM: masked to 0xFFFFF. -/
theorem test_physWrite : (after (exec (.physWrite 0x1FFFFF 0x98) (memBase 0x04))).ramAt 0xFFFFF = 0x98 := by decide
theorem test_physWrite_keeps_order :
    (after (exec (.physWrite 0x00001 0x98) (memBase 0x04))).ram =
      [(0x00000, 0x11), (0x00001, 0x98), (0x01234, 0x5A), (0x7FFFF, 0x22), (0x80000, 0x33), (0xFFFFF, 0x44)] := by decide
/-- VIRT_READ, R136's example. -/
theorem test_virtRead :
    (after (exec (.virtRead 0x8000 true) (fetchBase .idle 0xC3))).ret = some 0xC3 := by decide
/-- VIRT_READ, V-MEM: a translation wider than 20 bits is masked. -/
theorem test_virtRead_wide :
    (after (exec (.virtRead 0x0000 false)
      { memBase 0x00 with answers := { noAnswers with translate := [0x1F00000] } })).ret = some 0x11 := by decide
/-- VIRT_WRITE, R137's example. -/
theorem test_virtWrite :
    (after (exec (.virtWrite 0x0100 0xAA)
      { memBase 0x04 with answers := { noAnswers with translate := [0x80100] } })).ramAt 0x80100 = 0xAA := by decide
/-- CPU_MEM_READ, R138's example, and S3(a): the fetch of 0x4D fires. -/
theorem test_cpuMemRead_ed :
    (after (exec (.cpuMemRead 0x8000 true) (fetchBase .idle 0xED))).ret = some 0xED ∧
    (after (exec (.cpuMemRead 0x8000 true) (fetchBase .idle 0xED))).det = .sawPrefixED := by decide
/-- CPU_MEM_READ, S3: the fetch of 0x4D fires, the operand read of it does not. -/
theorem test_cpuMemRead_4d :
    (after (exec (.cpuMemRead 0x8000 true) (fetchBase .sawPrefixED 0x4D))).liveIrq = false ∧
    (after (exec (.cpuMemRead 0x8000 false) (fetchBase .sawPrefixED 0x4D))).liveIrq = true ∧
    (after (exec (.cpuMemRead 0x8000 false) (fetchBase .sawPrefixED 0x4D))).det = .idle := by decide
/-- CPU_MEM_WRITE, V-DET: a write does not touch the detector. -/
theorem test_cpuMemWrite :
    (after (exec (.cpuMemWrite 0x8000 0x12) (fetchBase .sawPrefixED 0x4D))).det = .sawPrefixED ∧
    (after (exec (.cpuMemWrite 0x8000 0x12) (fetchBase .sawPrefixED 0x4D))).ramAt 0x8000 = 0x12 := by decide
/-- PORT_READ, R155: the high byte is ignored. -/
theorem test_portRead :
    (after (exec (.portRead 0xFF7A) { readBase 0x80 with answers := { noAnswers with claims := [false] } })).ret =
      some 0x5A := by decide
/-- PORT_READ, R153: a claimed address goes to the controller, not to the LED port. -/
theorem test_portRead_claimed :
    (after (exec (.portRead 0x000D)
      { base with answers := { noAnswers with claims := [true], ctlRead := [0x42] } })).ret = some 0x42 := by decide
/-- PORT_WRITE, S8. -/
theorem test_portWrite : (after (exec (.portWrite 0x007B 0x09) (portCBase 0x03))).portC = 0x13 := by decide
/-- PORT_WRITE, R154. -/
theorem test_portWrite_claimed :
    (after (exec (.portWrite 0x000D 0xA5)
      { base with answers := { noAnswers with claims := [true], ctlWrite := [false] } })).led = 0x00 := by decide
/-- CS_RECALC, R202. -/
theorem test_csRecalc :
    (after (exec .csRecalc { base with portC := 0x05, cs := 0 })).history = [.csRaise] ∧
    (after (exec .csRecalc { base with portC := 0x05, cs := 3 })).cs = 5 := by decide
/-- FETCH_OBSERVE, R236. -/
theorem test_fetchObserve :
    (after (exec (.fetchObserve 0xED) base)).det = .sawPrefixED ∧
    (after (exec (.fetchObserve 0xED) { base with det := .sawPrefixED })).det = .idle := by decide
/-- NONFETCH, R237: under `idle`, and under `keep`. -/
theorem test_nonfetch :
    (after (exec .nonfetch { base with det := .sawPrefixED })).det = .idle ∧
    (after (exec .nonfetch { base with det := .sawPrefixED, params := ⟨false, false, .keep, false⟩ })).det = .sawPrefixED := by
  decide
/-- RETI_EVENT, V-IRQ. -/
theorem test_retiEvent :
    (after (exec .retiEvent (irqBase false true false))).liveIrq = false ∧
    (after (exec .retiEvent (irqBase true true true))).liveIrq = true := by decide
/-- REPOLL, R239: an answer no changes nothing. -/
theorem test_repoll :
    (after (exec .repoll (irqBase false false true))).liveIrq = true ∧
    (after (exec .repoll (irqBase false true false))).liveIrq = true := by decide
/-- RECALC_REQ, V-IRQ. -/
theorem test_recalcReq : (after (exec .recalcReq (irqBase false false false))).recalc = true := by decide
/-- RECALC_SVC, V-IRQ: with nothing live. -/
theorem test_recalcSvc_polls :
    (after (exec (.recalcSvc true false) (irqBase true false true))).liveIrq = true ∧
    (after (exec (.recalcSvc true false) (irqBase true false true))).recalc = true ∧
    (after (exec (.recalcSvc false false) (irqBase true false false))).recalc = false := by decide
/-- RECALC_SVC, V-IRQ: with an interrupt live nothing is polled. -/
theorem test_recalcSvc_live :
    (after (exec (.recalcSvc false false) (irqBase true true true))).history = [] ∧
    (after (exec (.recalcSvc false false) (irqBase true true true))).recalc = false ∧
    (after (exec (.recalcSvc false true) (irqBase true true true))).recalc = true := by decide
/-- REV8, V-SPI. -/
theorem test_rev8 :
    (after (exec (.rev8 0x4D) base)).ret = some 0xB2 ∧ (after (exec (.rev8 0xED) base)).ret = some 0xB7 := by decide
/-- SPI_EXCHANGE, R261's example. -/
theorem test_spiExchange :
    (after (exec (.spiExchange 0x40)
      { base with params := ⟨false, true, .idle, false⟩, answers := { noAnswers with spiXfer := [0x01] } })).ret = some 0x80 ∧
    (after (exec (.spiExchange 0x40)
      { base with params := ⟨false, true, .idle, false⟩, answers := { noAnswers with spiXfer := [0x01] } })).history =
      [.spiXfer 0x02] := by decide
theorem test_spiExchange_unattached :
    (after (exec (.spiExchange 0x40) base)).ret = some 0xFF ∧ (after (exec (.spiExchange 0x40) base)).history = [] := by
  decide
/-- RESET, R300. -/
theorem test_reset_registers :
    (after (exec (.reset resetExample) { base with recalc := true, det := .sawPrefixED })).cs = 5 ∧
    (after (exec (.reset resetExample) { base with recalc := true, det := .sawPrefixED })).recalc = false ∧
    (after (exec (.reset resetExample) { base with recalc := true, det := .sawPrefixED })).trace = 0x1234 := by decide
theorem test_reset_arrays :
    (after (exec (.reset resetExample) base)).romAt 0 = 0xF3 ∧
    (after (exec (.reset resetExample) base)).ramAt 0xFFFFF = 0x77 := by decide

/-! ## Witnesses: for each statement with hypotheses, states and operands that meet them, at the ends of their ranges -/

/-- A state with one request made, by the agent its operation names; the CPU's ends its instruction. -/
def asking (r : Request) (s : State) : State := { s with pending := [⟨r, true, false⟩] }

/-- The scheduler's request of a service. -/
def serviceAsked : Asked := ⟨encode (.recalcSvc true true), true, false⟩

/-- A request of the DMA engine. -/
def dmaAsked : Asked := ⟨encode (.physWrite 0x12345 0x99), false, true⟩

/-- A state inside a CPU instruction, `DMA_ACTIVE = false`: a service and a DMA access wait, and a port write of the CPU that
ends its instruction comes after them. -/
def insideBase : State :=
  { base with cpuAt := .inside, pending := [serviceAsked, dmaAsked, ⟨encode (.outLed 0xA5), true, false⟩] }

theorem witness_StepPerformsTheOldestRequest :
    insideBase.pending = [serviceAsked, dmaAsked] ++ ⟨encode (.outLed 0xA5), true, false⟩ :: [] ∧
    (∀ w ∈ [serviceAsked, dmaAsked], insideBase.waits w = true) ∧
    decode ⟨insideBase.params.ideConfigured, insideBase.det, insideBase.started⟩ (encode (.outLed 0xA5)) =
      .ok (.outLed 0xA5) ∧
    insideBase.inTurn false (.outLed 0xA5) = true := by decide
theorem witness_StepWithoutAnOperation :
    base.pending = [] ∧
    (∀ q ∈ { insideBase with pending := [serviceAsked, dmaAsked] }.pending,
      { insideBase with pending := [serviceAsked, dmaAsked] }.waits q = true) ∧
    { insideBase with pending := [serviceAsked, ⟨⟨.fetch8, []⟩, true, false⟩] }.pending =
      [serviceAsked] ++ ⟨⟨.fetch8, []⟩, true, false⟩ :: [] ∧
    decode ⟨insideBase.params.ideConfigured, insideBase.det, insideBase.started⟩ ⟨.fetch8, []⟩ = .error .wrongLength := by
  decide
theorem witness_AWellFormedRequestStepsOn :
    (∀ q ∈ insideBase.pending, ∃ i, WellFormed insideBase.ctx i ∧ q.request = encode i) ∧
    WellFormed (asking (encode (.recalcSvc true false)) base).ctx (.recalcSvc true false) ∧
    (asking (encode (.recalcSvc true false)) base).pending = ⟨encode (.recalcSvc true false), true, false⟩ :: [] ∧
    (asking (encode (.recalcSvc true false)) base).cpuAt = .boundary := by
  refine ⟨?_, by decide, by decide, by decide⟩
  intro q h
  simp only [insideBase, List.mem_cons, List.not_mem_nil, or_false] at h
  rcases h with rfl | rfl | rfl
  · exact ⟨.recalcSvc true true, by decide, rfl⟩
  · exact ⟨.physWrite 0x12345 0x99, by decide, rfl⟩
  · exact ⟨.outLed 0xA5, by decide, rfl⟩
theorem witness_DecodeOfEncodeIsTheOperation :
    WellFormed ctx0 (.physRead (2 ^ 32 - 1)) ∧ WellFormed ctxIde (.outIde 7 0xFF) ∧ WellFormed ctxSaw .opcReti ∧
    WellFormed ctx0 (.reset resetExample) := by decide
theorem witness_EncodeOfDecodeIsTheRequest :
    decode ctx0 ⟨.pa20 .read, [0xFF, 0xFF, 0x0F]⟩ = .ok (.memrExt 0x7FFFF) := by decide
theorem witness_DecodedOperationsAreWellFormed :
    decode ctx0 ⟨.port8 .read, [0xFF]⟩ = .ok (.inUnmapped 0xFF) := by decide
theorem witness_StepKeepsInv :
    Inv (asking (encode (.outPpiC 0 5)) base) ∧
    ∃ t, step (asking (encode (.outPpiC 0 5)) base) = .next t ∧ t.cs = 5 :=
  ⟨⟨by decide, by decide, by decide, by decide, by decide⟩, after (step (asking (encode (.outPpiC 0 5)) base)), rfl,
    by decide⟩
theorem witness_ResetLoadsItsParameters :
    resetExample.image = [.rom 0 0x00, .ram 0xFFFFF 0x77] ++ .rom 0 0xF3 :: [.rom 0x7FFFF 0x76] ∧
    (∀ w, ImageByte.rom 0 w ∉ [ImageByte.rom 0x7FFFF 0x76]) ∧
    resetExample.image = [.rom 0 0x00] ++ .ram 0xFFFFF 0x77 :: [.rom 0 0xF3, .rom 0x7FFFF 0x76] ∧
    (∀ w, ImageByte.ram 0xFFFFF w ∉ [ImageByte.rom 0 0xF3, .rom 0x7FFFF 0x76]) ∧
    (∀ (i : BitVec 19) v, ImageByte.rom i v ∈ resetExample.image → i.toNat ≠ 0x7FFFE) ∧
    (∀ (i : BitVec 20) v, ImageByte.ram i v ∈ resetExample.image → i.toNat ≠ 0x0) := by
  refine ⟨by decide, ?_, by decide, ?_, ?_, ?_⟩
  · intro w h; simp at h
  · intro w h; simp at h
  · intro i v h
    simp [resetExample] at h
    rcases h with ⟨rfl, -⟩ | ⟨rfl, -⟩ | ⟨rfl, -⟩ <;> decide
  · intro i v h
    simp [resetExample] at h
    obtain ⟨rfl, -⟩ := h
    decide
theorem witness_ResetIsRefusedOnceStarted :
    { asking (encode (.reset resetExample)) base with started := true }.started = true ∧
    { asking (encode (.reset resetExample)) base with started := true }.pending =
      ⟨⟨.event .reset, (encode (.reset resetExample)).bytes⟩, true, false⟩ :: [] ∧
    (∃ t, step insideBase = .next t) ∧ (∃ q ∈ insideBase.pending, insideBase.waits q = false) ∧
    (∃ t, step { asking (encode .repoll) base with started := true } = .next t) :=
  ⟨rfl, rfl, ⟨_, rfl⟩, ⟨⟨encode (.outLed 0xA5), true, false⟩, by decide, by decide⟩, ⟨_, rfl⟩⟩
theorem witness_StepKeepsTheRunParameters :
    ∃ t, step (asking (encode (.outIde 0 1)) ideBase) = .next t ∧ t.params.ideConfigured = true :=
  ⟨after (step (asking (encode (.outIde 0 1)) ideBase)), rfl, by decide⟩
theorem witness_OnlyResetWritesRom :
    (∃ t, exec (.memwBase 0 0xAA) (memBase 0x08) = .next t) ∧ ∀ p, Instr.memwBase 0 0xAA ≠ .reset p :=
  ⟨⟨_, rfl⟩, fun _ h => nomatch h⟩
theorem witness_OnlyWriteOperationsChangeRam :
    (∃ t, exec (.cpuMemRead 0x8000 true) (fetchBase .idle 0xED) = .next t) ∧
    (∀ p, Instr.cpuMemRead 0x8000 true ≠ .reset p) ∧
    (∀ off v, Instr.cpuMemRead 0x8000 true ≠ .memwBase off v ∧ Instr.cpuMemRead 0x8000 true ≠ .memwExt off v) ∧
    (∀ a v, Instr.cpuMemRead 0x8000 true ≠ .physWrite a v) ∧
    (∀ va v, Instr.cpuMemRead 0x8000 true ≠ .virtWrite va v ∧ Instr.cpuMemRead 0x8000 true ≠ .cpuMemWrite va v) :=
  ⟨⟨_, rfl⟩, fun _ h => (nomatch h), fun _ _ => ⟨fun h => (nomatch h), fun h => (nomatch h)⟩, fun _ _ h => (nomatch h),
    fun _ _ => ⟨fun h => (nomatch h), fun h => (nomatch h)⟩⟩
theorem witness_ReadBackAfterAWrite : 0x00000 % 2 ^ 20 ≠ 0xFFFFF % 2 ^ 20 := by decide
theorem witness_BankWriteSwitchesTheNextAccess :
    ReadsMemory (.memrBase 0x7FFFF) (after (exec (.outPpiA 0 0x08) base)) 0x7FFFF ∧
    ReadsMemory (.memrExt 0x00000) (after (exec (.outPpiA 0 0x08) base)) 0x80000 ∧
    ReadsMemory (.physRead 0x100000) (after (exec (.outPpiA 0 0x08) base)) 0x100000 ∧
    ReadsMemory (.cpuMemRead 0x0001 true) (after (exec (.outPpiA 0 0x00) (fetchBase .idle 0))) 0x8000 ∧
    WritesMemory (.memwExt 0x7FFFF 0x99) (after (exec (.outPpiA 0 0x04) base)) 0xFFFFF 0x99 ∧
    WritesMemory (.cpuMemWrite 0x0001 0x99) (after (exec (.outPpiA 0 0x00) (fetchBase .idle 0))) 0x8000 0x99 :=
  ⟨.inl ⟨_, rfl, by decide⟩, .inr (.inl ⟨_, rfl, by decide⟩), .inr (.inr (.inl rfl)),
    .inr (.inr (.inr ⟨0x0001, by decide, .inr ⟨true, rfl⟩⟩)), .inr (.inl ⟨_, rfl, by decide⟩),
    .inr (.inr (.inr ⟨0x0001, by decide, .inr rfl⟩))⟩
theorem witness_VirtReadReturnsTheTranslatedByte : ∃ quiet : Bool, quiet = true := ⟨true, rfl⟩
theorem witness_VirtAndCpuWritesStoreAtTheTranslation :
    (∃ i, i = Instr.virtWrite 0x0100 0xAA) ∧ (∃ i, i = Instr.cpuMemWrite 0xFFFF 0x01) := ⟨⟨_, rfl⟩, ⟨_, rfl⟩⟩

/-- A state whose RAM holds the return sequence at 0x8000 and 0x8001 (S3). -/
def returnBase : State :=
  { base with
    portA := 0x00, liveIrq := true, ram := [(0x8000, 0xED), (0x8001, 0x4D)]
    answers := { noAnswers with translate := [0x8000, 0x8001], poll := [false] } }

theorem witness_ReturnSequenceFiresOnce :
    returnBase.det = .idle ∧ virtByte returnBase 0x8000 = 0xED ∧
    ∃ t, exec (.cpuMemRead 0x8000 true) returnBase = .next t ∧ virtByte t 0x8001 = 0x4D :=
  ⟨by decide, by decide, after (exec (.cpuMemRead 0x8000 true) returnBase), rfl, by decide⟩
theorem witness_OperandReadOfTheSecondByteDoesNotFire :
    returnBase.det = .idle ∧ virtByte returnBase 0x8000 = 0xED ∧
    ∃ t, exec (.cpuMemRead 0x8000 true) returnBase = .next t :=
  ⟨by decide, by decide, _, rfl⟩
theorem witness_FetchRowsFromIdle : base.det = .idle ∧ (0x4D : Byte) ≠ 0xED := by decide
theorem witness_FetchRowsFromSawPrefixED :
    (fetchBase .sawPrefixED 0).det = .sawPrefixED ∧ (0xED : Byte) ≠ 0x4D := by decide
theorem witness_RecalcRequestSetsTheFlag : (irqBase true false false).recalc = true := by decide
theorem witness_RecalcServiceFollowsItsTable :
    (irqBase false true false).recalc = false ∧
    ((irqBase true true false).recalc = true ∧ (irqBase true true false).liveIrq = true) ∧
    ((irqBase true false true).recalc = true ∧ (irqBase true false true).liveIrq = false) := by decide
theorem witness_LiveIrqFallsOnlyByTheRetiEvent :
    ∃ t, exec .retiEvent (irqBase false true false) = .next t ∧ (irqBase false true false).liveIrq = true ∧
      t.liveIrq = false :=
  ⟨after (exec .retiEvent (irqBase false true false)), rfl, by decide, by decide⟩
theorem witness_LiveIrqRisesOnlyByAPoll :
    ∃ t, exec (.recalcSvc true true) (irqBase true false true) = .next t ∧ (irqBase true false true).liveIrq = false ∧
      t.liveIrq = true :=
  ⟨after (exec (.recalcSvc true true) (irqBase true false true)), rfl, by decide, by decide⟩
theorem witness_NoPollWhileAnInterruptIsLive :
    (∃ t, exec (.recalcSvc true true) (irqBase true true true) = .next t) ∧ (irqBase true true true).liveIrq = true ∧
    ¬ FiresReti (.recalcSvc true true) (irqBase true true true) ∧ Instr.recalcSvc true true ≠ .repoll :=
  ⟨⟨_, rfl⟩, by decide, by simp [FiresReti], by decide⟩
theorem witness_RecalcFlagChangesOnlyByItsOperations :
    (∃ t, exec .recalcReq (irqBase false false false) = .next t ∧ (irqBase false false false).recalc = false ∧
      t.recalc = true) ∧
    (∃ t, exec (.recalcSvc false false) (irqBase true true false) = .next t ∧ (irqBase true true false).recalc = true ∧
      t.recalc = false) :=
  ⟨⟨after (exec .recalcReq (irqBase false false false)), rfl, by decide, by decide⟩,
    ⟨after (exec (.recalcSvc false false) (irqBase true true false)), rfl, by decide, by decide⟩⟩
theorem witness_ControlReadReturnsTheWholeRegister : (0x7F : Byte).getLsbD 7 = false := by decide
theorem witness_PortCReadComposesNibbles : ∃ k, k < 8 ∧ k = 7 := ⟨7, by decide, rfl⟩
theorem witness_PortAAndBWritesStore : (portCBase 0x0D).cs = (portCBase 0x0D).portC.extractLsb' 0 3 := by decide
theorem witness_ModeSetReplacesTheControlRegister :
    (0x80 : Byte).getLsbD 7 = true ∧ (portCBase 0xFF).cs = (portCBase 0xFF).portC.extractLsb' 0 3 := by decide
theorem witness_BitSetResetWritesOneBit : ∃ k, k < 8 ∧ k = (7 : BitVec 3).toNat := ⟨7, by decide, by decide⟩
theorem witness_ChipSelectEventsCountTransitions :
    (portCBase 0x03).cs = (portCBase 0x03).portC.extractLsb' 0 3 ∧
    (∃ t, exec (.outPpiC 0 0x00) (portCBase 0x03) = .next t) ∧ ∀ p, Instr.outPpiC 0 0x00 ≠ .reset p :=
  ⟨by decide, ⟨_, rfl⟩, fun _ h => (nomatch h)⟩
theorem witness_OutOfRangeSubAddresses : (portCBase 0x05).cs = (portCBase 0x05).portC.extractLsb' 0 3 := by decide
theorem witness_ClaimedPortReadIsDelegatedWhole :
    { base with answers := { noAnswers with claims := [true] } }.claimsAnswer 0xFFFF = true := by decide
theorem witness_UnmappedPortsReadOpenBusAndIgnoreWrites :
    base.claimsAnswer 0x1217 = false ∧
    portDecode base.params.ideConfigured ((0x1217 : PortAddr).extractLsb' 0 8) = .unmapped := by decide
theorem witness_UnclaimedPortOperationsAreTheirRows : base.claimsAnswer 0xFF7F = false := by decide
theorem witness_PortWritesChangeOnlyTheirDevice_claimed :
    { base with answers := { noAnswers with claims := [true] } }.claimsAnswer 0x0078 = true := by decide
theorem witness_PortWritesChangeOnlyTheirDevice_unclaimed :
    base.claimsAnswer 0x000C = false ∧ (0x000C : PortAddr).extractLsb' 0 8 ≠ 0x0D ∧
    ((0x00FC : PortAddr).extractLsb' 0 8 ≠ 0xFD ∧ (0x00FC : PortAddr).extractLsb' 0 8 ≠ 0xFE) ∧
    (0x0078 : PortAddr).extractLsb' 3 5 ≠ 0b01110#5 ∧ (0x0077 : PortAddr).extractLsb' 3 5 ≠ 0b01111#5 ∧
    (0x0080 : PortAddr).extractLsb' 3 5 ≠ 0b01111#5 := by decide
theorem witness_PortWritesChangeOnlyTheirDevice_ppi :
    ¬((0x007D : PortAddr).extractLsb' 3 5 = 0b01111#5 ∧ (0x007D : PortAddr).extractLsb' 0 2 = 0) ∧
    ¬((0x007C : PortAddr).extractLsb' 3 5 = 0b01111#5 ∧ (0x007C : PortAddr).extractLsb' 0 2 = 1) ∧
    ¬((0x007F : PortAddr).extractLsb' 3 5 = 0b01111#5 ∧
      ((0x007F : PortAddr).extractLsb' 0 2 = 2 ∨ ((0x007F : PortAddr).extractLsb' 0 2 = 3 ∧ (0x80 : Byte).getLsbD 7 = false))) ∧
    ¬((0x007B : PortAddr).extractLsb' 3 5 = 0b01111#5 ∧ (0x007B : PortAddr).extractLsb' 0 2 = 3 ∧
      (0x7F : Byte).getLsbD 7 = true) := by decide
theorem witness_BitReversalIsAnInvolution : ∃ k, k < 8 ∧ k = 7 := ⟨7, by decide, rfl⟩
theorem witness_SpiExchangeReversesBothWays :
    base.params.spiAttached = false ∧ { base with params := ⟨false, true, .idle, false⟩ }.params.spiAttached = true := by decide

/-! ### The schedule of the service (R242, R321) -/

/-- V-IRQ's live row as a point that a run stays at: at a boundary, a re-poll owed, an interrupt live. -/
def owed : State := { irqBase true true false with started := true }

/-- The CPU fetches a byte 0x00 as a whole instruction, and the scheduler services the flag, in turns. -/
def turns (n : Nat) : Asked := if n % 2 = 0 then serviceAsked else ⟨encode (.otherIdle 0x00), true, false⟩

/-- `returnBase` with the CPU's opcode fetch of 0xED, said to end its instruction, and a service waiting. -/
def returnAsked : State :=
  { returnBase with pending := [⟨encode (.cpuMemRead 0x8000 true), true, false⟩, serviceAsked] }

/-- An interrupt's last stack write at a boundary, after the instruction CB ED, and a service waiting. -/
def bitThenInterrupt : State :=
  { base with
    det := .sawPrefixED
    pending := [⟨encode (.cpuMemWrite 0xFFFE 0x01), true, false⟩, serviceAsked] }

theorem witness_RecalcServiceComesAtBoundariesOnly_service :
    { base with pending := [serviceAsked] }.pending = serviceAsked :: [] ∧
    decode { base with pending := [serviceAsked] }.ctx serviceAsked.request = .ok (.recalcSvc true true) ∧
    { base with pending := [serviceAsked] }.cpuAt = .boundary ∧
    insideBase.cpuAt ≠ .boundary ∧ serviceAsked ∈ insideBase.pending ∧ insideBase.waits serviceAsked = true ∧
    completes (step insideBase) = true := by decide
theorem witness_RecalcServiceComesAtBoundariesOnly_other :
    askedBy false .recalcReq ≠ .cpu ∧ (∃ t, exec .recalcReq base = .next t) ∧
    askedBy false (.reset resetExample) ≠ .cpu ∧ (∃ t, exec (.reset resetExample) base = .next t) :=
  ⟨by decide, ⟨_, rfl⟩, by decide, ⟨_, rfl⟩⟩
theorem witness_RecalcServiceComesAtBoundariesOnly_cpu :
    askedBy false (.otherIdle 0x00) = .cpu ∧ fetchedByte (.otherIdle 0x00) base = some 0x00 ∧
    askedBy false .pfxEd = .cpu ∧ fetchedByte .pfxEd base = some 0xED ∧
    { base with cpuAt := .extended }.cpuAt = .extended ∧ fetchedByte (.outLed 0xA5) base = none ∧
    isOperandRead (.outLed 0xA5) = false ∧ insideBase.cpuAt ≠ .extended := by decide
theorem witness_RecalcServiceComesAtBoundariesOnly_run :
    Run turns (fun _ => owed) ∧ Fair turns (fun _ => owed) ∧ owed.started = true ∧ owed.recalc = true := by
  refine ⟨⟨fun n => ?_, fun n => ?_⟩, ⟨fun n => ⟨2 * n + 1, by omega, .otherIdle 0x00, ?_, ?_, rfl⟩,
    fun n => ⟨2 * n, by omega, true, true, ?_⟩⟩, rfl, rfl⟩
  · unfold turns
    split <;> rfl
  · unfold turns
    split <;> rfl
  · have h : (2 * n + 1) % 2 ≠ 0 := by omega
    simp only [turns, h, if_false]
    rfl
  · have h : (2 * n + 1) % 2 ≠ 0 := by omega
    simp only [turns, h, if_false]
    rfl
  · have h : 2 * n % 2 = 0 := by omega
    simp only [turns, h, if_true]
    rfl

/-- R242: after the first fetch of a RETI the service waits, even where the CPU calls that fetch its last. -/
theorem test_service_waits_inside_a_return :
    (after (step returnAsked)).cpuAt = .extended ∧ (after (step returnAsked)).pending = [serviceAsked] ∧
    (after (step returnAsked)).waits serviceAsked = true := by decide
/-- R242: an 0xED that is not its instruction's first opcode byte may end it, and the service then comes (P3's line 6). -/
theorem test_service_after_an_interrupt :
    (after (step { asking (encode .pfxEd) base with cpuAt := .inside })).cpuAt = .boundary ∧
    (after (step bitThenInterrupt)).cpuAt = .boundary ∧
    (after (step bitThenInterrupt)).waits serviceAsked = false := by decide
/-- R231, D13: an 0xED after a prefix begins the same two opcode bytes, and one after 0xCB does not. -/
theorem test_prefixed_place :
    CpuAt.boundary.afterFetch false 0xDD = .prefixed ∧ CpuAt.prefixed.afterFetch true 0xED = .extended ∧
    CpuAt.boundary.afterFetch false 0xCB = .inside ∧ CpuAt.inside.afterFetch true 0xED = .boundary ∧
    CpuAt.extended.afterFetch true 0x4D = .boundary := by decide
/-- R7: the agent of an operation. -/
theorem test_agents :
    askedBy false (.cpuMemRead 0x8000 true) = .cpu ∧ askedBy false (.virtRead 0x8000 true) = .tool ∧
    askedBy false (.recalcSvc true true) = .scheduler ∧ askedBy true (.cpuMemRead 0x8000 true) = .cpu ∧
    askedBy false (.physRead 0) = .tool ∧ askedBy true (.physRead 0) = .dma := by decide
/-- R76, D23: with `DMA_ACTIVE = true` a DMA access is in turn at every boundary, whatever the detector holds. -/
theorem test_dma_access :
    { memBase 0x00 with params := ⟨false, false, .idle, true⟩, det := .sawPrefixED }.waits dmaAsked = false ∧
    (memBase 0x00).waits dmaAsked = true ∧
    { memBase 0x00 with params := ⟨false, false, .idle, true⟩, cpuAt := .inside }.waits dmaAsked = true := by decide

end Sys2Proof.Machine.Tests
end

