-- ==== Sys2Proof/Proofs/Scope.lean ====
section
/-! PROOFS. The scope's statements about one step (00_scope.md): the oldest request in turn is performed, and nothing else
starts an operation. -/

namespace Sys2Proof.Machine

/-! ## Whose turn it is -/

/-- The operations that the DMA engine may make as its own: a physical access, whole or one of its halves (R76). -/
def IsPhysicalAccess (i : Instr) : Prop :=
  (∃ a, i = .physRead a) ∨ (∃ a v, i = .physWrite a v) ∨ (∃ off, i = .memrBase off) ∨ (∃ off, i = .memrExt off) ∨
    (∃ off v, i = .memwBase off v) ∨ ∃ off v, i = .memwExt off v

/-- The DMA engine asks for the marked physical accesses and for nothing else. -/
theorem askedBy_eq_dma_iff (dma : Bool) (i : Instr) : askedBy dma i = .dma ↔ dma = true ∧ IsPhysicalAccess i := by
  cases dma with
  | false => simp [askedBy_dma i]
  | true =>
    cases i with
    | virtRead va quiet => cases quiet <;> simp [askedBy, IsPhysicalAccess]
    | _ => simp [askedBy, IsPhysicalAccess]

/-- Only two agents can be out of turn: the scheduler off a boundary (R242), and the DMA engine there or while
`DMA_ACTIVE` is false (R76, D23). -/
theorem inTurn_eq_false_iff (s : State) (dma : Bool) (i : Instr) :
    s.inTurn dma i = false ↔ (askedBy dma i = .scheduler ∧ s.cpuAt ≠ .boundary) ∨
      (askedBy dma i = .dma ∧ (s.params.dmaActive = false ∨ s.cpuAt ≠ .boundary)) := by
  unfold State.inTurn
  cases askedBy dma i with
  | dma => cases s.params.dmaActive <;> simp
  | _ => simp

theorem waits_of_decode_ok {s : State} {q : Asked} {i : Instr} (h : decode s.ctx q.request = .ok i) :
    s.waits q = !s.inTurn q.dma i := by simp [State.waits, h]

theorem waits_of_decode_error {s : State} {q : Asked} {e : DecodeError} (h : decode s.ctx q.request = .error e) :
    s.waits q = false := by simp [State.waits, h]

/-! ## The three things a step can find -/

/-- Every arm of `exec` answers a next state (R270). -/
theorem exec_completes (i : Instr) (s : State) : ∃ t, exec i s = .next t := by
  cases i <;> exact ⟨_, rfl⟩

theorem step_of_all_wait {s : State} (h : ∀ q ∈ s.pending, s.waits q = true) : step s = .next s := by
  simp [step, List.dropWhile_eq_nil_iff.2 h]

theorem step_of_rejected {s : State} {waiting : List Asked} {q : Asked} {rest : List Asked} {e : DecodeError}
    (hp : s.pending = waiting ++ q :: rest) (hw : ∀ w ∈ waiting, s.waits w = true)
    (hd : decode s.ctx q.request = .error e) : step s = .refused (.undecodable e) := by
  rw [step_eq s waiting q rest hp hw (waits_of_decode_error hd), hd]

theorem step_of_inTurn {s t : State} {waiting : List Asked} {q : Asked} {rest : List Asked} {i : Instr}
    (hp : s.pending = waiting ++ q :: rest) (hw : ∀ w ∈ waiting, s.waits w = true)
    (hd : decode s.ctx q.request = .ok i) (hi : s.inTurn q.dma i = true)
    (ht : exec i (s.takeRequest (waiting ++ rest)) = .next t) : step s = .next (t.finish (cpuAfter q i s t)) := by
  have hq : s.waits q = false := by simp [waits_of_decode_ok hd, hi]
  rw [step_eq s waiting q rest hp hw hq, hd]
  exact (finished_next q i s _ _).2 ⟨t, ht, rfl⟩

/-! ## The obligations -/

/-- Settles O1: the performed operation completes, and the step records it. -/
theorem stepPerformsTheOldestRequest : Obligations.StepPerformsTheOldestRequest := by
  intro s waiting q rest i hp hw hd hi
  obtain ⟨t, ht⟩ := exec_completes i (s.takeRequest (waiting ++ rest))
  exact ⟨t, ht, step_of_inTurn hp hw hd hi ht⟩

/-- Settles O2: a waiting request is one out of turn, the scheduler's or the DMA engine's; with nothing but such requests
the step idles, and a rejected one behind them stops it. -/
theorem stepWithoutAnOperation : Obligations.StepWithoutAnOperation := by
  refine ⟨fun s q => ?_, fun s => step_of_all_wait, fun s waiting q rest e => step_of_rejected⟩
  rw [waits_iff]
  refine exists_congr fun i => and_congr_right fun _ => ?_
  rw [inTurn_eq_false_iff, askedBy_scheduler, askedBy_eq_dma_iff, and_assoc]
  rfl

end Sys2Proof.Machine
end

