-- ==== Sys2Proof/Proofs/State.lean ====
section
/-! PROOFS. The state's statements (10_state.md): what each operation does to the run parameters, the two arrays and the
chip-select cache, said once for `exec`, and the invariant that follows. -/

namespace Sys2Proof.Machine

/-! ## What an operation keeps -/

/-- `t` has the run parameters and ROM of `s`, and its chip-select cache either stands as before with port C, or has
been recalculated (R202). -/
structure Keeps (s t : State) : Prop where
  params : t.params = s.params
  rom    : t.rom = s.rom
  select : (t.cs = s.cs ∧ t.portC = s.portC) ∨ t.cs = selectOf t.portC

/-- `t` keeps RAM as well. -/
structure KeepsRam (s t : State) : Prop extends Keeps s t where
  ram : t.ram = s.ram

/-- What an operation other than RESET can do: RAM is as it was, or one byte is stored where the operation writes. -/
structure Effect (i : Instr) (s t : State) : Prop extends Keeps s t where
  ram : t.ram = s.ram ∨ ∃ a v, WritesMemory i s a v ∧ t.ram = Memory.put s.ram (maskPhys a).toNat v

theorem Keeps.of_same {s t : State} (hp : t.params = s.params) (hr : t.rom = s.rom) (hs : t.cs = s.cs)
    (hc : t.portC = s.portC) : Keeps s t := ⟨hp, hr, .inl ⟨hs, hc⟩⟩

theorem KeepsRam.of_same {s t : State} (hp : t.params = s.params) (hr : t.rom = s.rom) (hs : t.cs = s.cs)
    (hc : t.portC = s.portC) (hm : t.ram = s.ram) : KeepsRam s t := ⟨.of_same hp hr hs hc, hm⟩

theorem Keeps.trans {s t u : State} (h : Keeps s t) (k : Keeps t u) : Keeps s u where
  params := k.params.trans h.params
  rom := k.rom.trans h.rom
  select := by
    obtain ⟨hcs, hpc⟩ | hnew := k.select
    · rw [hcs, hpc]; exact h.select
    · exact .inr hnew

theorem KeepsRam.trans {s t u : State} (h : KeepsRam s t) (k : KeepsRam t u) : KeepsRam s u :=
  ⟨h.toKeeps.trans k.toKeeps, k.ram.trans h.ram⟩

theorem KeepsRam.noRet {s t : State} (h : KeepsRam s t) : KeepsRam s t.noRet := ⟨⟨h.params, h.rom, h.select⟩, h.ram⟩

theorem Effect.of_keepsRam {i : Instr} {s t : State} (h : KeepsRam s t) : Effect i s t := ⟨h.toKeeps, .inl h.ram⟩

/-- A write operation that stores at its own address, or nowhere. -/
theorem Effect.of_write {i : Instr} {s t : State} {a : Nat} {v : Byte} (hw : WritesMemory i s a v) (hk : Keeps s t)
    (hm : t.ram = s.ram ∨ t.ram = Memory.put s.ram (maskPhys a).toNat v) : Effect i s t.noRet :=
  ⟨⟨hk.params, hk.rom, hk.select⟩, hm.imp_right fun h => ⟨a, v, hw, h⟩⟩

/-! ## The shared operations -/

theorem retiEvent_keepsRam (s : State) : KeepsRam s (retiEvent s) := .of_same rfl rfl rfl rfl rfl

theorem setDet_keepsRam (d : Det) (s : State) : KeepsRam s (s.setDet d) := .of_same rfl rfl rfl rfl rfl

theorem fetchObserve_keepsRam (b : Byte) (s : State) : KeepsRam s (fetchObserve b s) := by
  cases h : detFires s.det b
  · rw [fetchObserve_quiet b s h]
    exact setDet_keepsRam _ s
  · rw [fetchObserve_fires b s h]
    exact (setDet_keepsRam _ s).trans (retiEvent_keepsRam _)

theorem nonFetchObserve_keepsRam (s : State) : KeepsRam s (nonFetchObserve s) := by
  obtain ⟨d, h, -⟩ := nonFetchObserve_eq s
  rw [h]
  exact setDet_keepsRam d s

theorem recalcService_keepsRam (iff1 iff2 : Bool) (s : State) : KeepsRam s (recalcService iff1 iff2 s) := by
  obtain ⟨-, h⟩ | ⟨-, -, h⟩ | ⟨-, -, h⟩ := recalcService_cases iff1 iff2 s <;> rw [h] <;>
    exact .of_same rfl rfl rfl rfl rfl

theorem virtRead_keepsRam (va : VirtAddr) (quiet : Bool) (s : State) : KeepsRam s (virtRead va quiet s) := by
  obtain ⟨d, h⟩ := virtRead_eq va quiet s
  rw [h]
  exact .of_same rfl rfl rfl rfl rfl

theorem cpuMemRead_keepsRam (va : VirtAddr) (m1 : Bool) (s : State) : KeepsRam s (cpuMemRead va m1 s) := by
  cases m1
  · exact (virtRead_keepsRam va false s).trans (nonFetchObserve_keepsRam _)
  · exact (virtRead_keepsRam va false s).trans (fetchObserve_keepsRam _ _)

theorem spiExchange_keepsRam (b : Byte) (s : State) : KeepsRam s (spiExchange b s) := by
  unfold spiExchange
  split <;> exact .of_same rfl rfl rfl rfl rfl

/-! ## The PPI and the port multiplexer -/

/-- A recalculation makes the cache the select of port C, whatever a store has just put there. -/
theorem csRecalc_keepsRam {s u : State} (hp : u.params = s.params) (hr : u.rom = s.rom) (hm : u.ram = s.ram) :
    KeepsRam s (csRecalc u) := by
  rw [csRecalc_eq]
  exact ⟨⟨hp, hr, .inr rfl⟩, hm⟩

theorem ppiRead_keepsRam (sub : Nat) (s : State) : KeepsRam s (ppiRead sub s) := by
  match sub with
  | 0 | 1 | 2 | 3 | _ + 4 => exact .of_same rfl rfl rfl rfl rfl

theorem ppiWrite_keepsRam (sub : BitVec 2) (v : Byte) (s : State) : KeepsRam s (ppiWrite sub.toNat v s) := by
  obtain ⟨-, h⟩ | ⟨-, h⟩ | ⟨-, h⟩ | ⟨-, -, h⟩ | ⟨-, -, h⟩ := ppiWrite_cases sub v s <;> rw [h] <;>
    exact csRecalc_keepsRam rfl rfl rfl

theorem targetRead_keepsRam (t : PortTarget) (p : Byte) (s : State) : KeepsRam s (targetRead t p s) := by
  cases t with
  | ppi sub => exact ppiRead_keepsRam sub.toNat s
  | _ => exact .of_same rfl rfl rfl rfl rfl

theorem targetWrite_keepsRam (t : PortTarget) (p v : Byte) (s : State) : KeepsRam s (targetWrite t p v s) := by
  cases t with
  | ppi sub => exact ppiWrite_keepsRam sub v s
  | _ => exact .of_same rfl rfl rfl rfl rfl

theorem claimCheck_keepsRam (d : Dir) (addr : PortAddr) (s : State) : KeepsRam s (claimCheck d addr s) :=
  .of_same rfl rfl rfl rfl rfl

theorem claimedRead_keepsRam (addr : PortAddr) (s : State) : KeepsRam s (claimedRead addr s) :=
  .of_same rfl rfl rfl rfl rfl

theorem claimedWrite_keepsRam (addr : PortAddr) (v : Byte) (s : State) : KeepsRam s (claimedWrite addr v s) :=
  .of_same rfl rfl rfl rfl rfl

theorem portRead_keepsRam (addr : PortAddr) (s : State) : KeepsRam s (portRead addr s) := by
  cases h : s.claimsAnswer addr
  · rw [portRead_unclaimed addr s h]
    exact (claimCheck_keepsRam _ _ s).trans (targetRead_keepsRam _ _ _)
  · rw [portRead_claimed addr s h]
    exact (claimCheck_keepsRam _ _ s).trans (claimedRead_keepsRam _ _)

theorem portWrite_keepsRam (addr : PortAddr) (v : Byte) (s : State) : KeepsRam s (portWrite addr v s) := by
  cases h : s.claimsAnswer addr
  · rw [portWrite_unclaimed addr v s h]
    exact (claimCheck_keepsRam _ _ s).trans (targetWrite_keepsRam _ _ _ _)
  · rw [portWrite_claimed addr v s h]
    exact (claimCheck_keepsRam _ _ s).trans (claimedWrite_keepsRam _ _ _)

/-! ## The write operations -/

theorem baseAddr_eq_maskPhys (off : BitVec 19) : baseAddr off = maskPhys off.toNat := by
  apply BitVec.eq_of_toNat_eq
  rw [baseAddr_toNat, maskPhys_toNat]
  omega

theorem extAddr_eq_maskPhys (off : BitVec 19) : extAddr off = maskPhys (2 ^ 19 + off.toNat) := by
  apply BitVec.eq_of_toNat_eq
  rw [extAddr_toNat, maskPhys_toNat]
  omega

theorem memwBase_effect (off : BitVec 19) (v : Byte) (s : State) :
    Effect (.memwBase off v) s (baseWrite (baseAddr off) v s).noRet := by
  obtain ⟨m, d, hu, hm⟩ := baseWrite_eq (baseAddr off) v s
  rw [hu]
  rw [baseAddr_eq_maskPhys] at hm
  exact .of_write (.inl ⟨off, rfl, rfl⟩) (.of_same rfl rfl rfl rfl) hm

theorem memwExt_effect (off : BitVec 19) (v : Byte) (s : State) :
    Effect (.memwExt off v) s (extWrite (extAddr off) v s).noRet := by
  obtain ⟨m, d, hu, hm⟩ := extWrite_eq (extAddr off) v s
  rw [hu]
  rw [extAddr_eq_maskPhys] at hm
  exact .of_write (.inr (.inl ⟨off, rfl, rfl⟩)) (.of_same rfl rfl rfl rfl) hm

theorem physWrite_effect (a : Nat) (v : Byte) (s : State) : Effect (.physWrite a v) s (physWrite a v s).noRet := by
  obtain ⟨m, d, hu, hm⟩ := physWrite_eq a v s
  rw [hu]
  exact .of_write (.inr (.inr (.inl rfl))) (.of_same rfl rfl rfl rfl) hm

theorem virtWrite_effect {i : Instr} {va : VirtAddr} {v : Byte} (hi : i = .virtWrite va v ∨ i = .cpuMemWrite va v)
    (s : State) : Effect i s (virtWrite va v s).noRet := by
  obtain ⟨m, d, hu, hm⟩ := virtWrite_eq va v s
  rw [hu]
  rw [State.physOf, maskPhys_mask] at hm
  exact .of_write (.inr (.inr (.inr ⟨va, rfl, hi⟩))) (.of_same rfl rfl rfl rfl) hm

/-! ## Every operation -/

/-- The inversion of `exec`: the operation is RESET, or has the effect above. The last arm holds the operations whose
meaning is a plain update of other fields. -/
theorem exec_effect {i : Instr} {s t : State} (h : exec i s = .next t) :
    (∃ p, i = .reset p ∧ t = (resetWith p s).noRet) ∨ Effect i s t := by
  cases i with
  | reset p => cases h; exact .inl ⟨p, rfl, rfl⟩
  | memwBase off v => cases h; exact .inr (memwBase_effect off v s)
  | memwExt off v => cases h; exact .inr (memwExt_effect off v s)
  | physWrite a v => cases h; exact .inr (physWrite_effect a v s)
  | virtWrite va v => cases h; exact .inr (virtWrite_effect (.inl rfl) s)
  | cpuMemWrite va v => cases h; exact .inr (virtWrite_effect (.inr rfl) s)
  | outPpiA x v => cases h; exact .inr (.of_keepsRam (ppiWrite_keepsRam 0 v s).noRet)
  | outPpiB x v => cases h; exact .inr (.of_keepsRam (ppiWrite_keepsRam 1 v s).noRet)
  | outPpiC x v => cases h; exact .inr (.of_keepsRam (ppiWrite_keepsRam 2 v s).noRet)
  | outPpiCtrl x v => cases h; exact .inr (.of_keepsRam (ppiWrite_keepsRam 3 v s).noRet)
  | modeset v | bsr ign n b | csRecalc => cases h; exact .inr (.of_keepsRam (.noRet (csRecalc_keepsRam rfl rfl rfl)))
  | pfxDd | pfxFd | pfxCb | pfxEd | opcReti | otherIdle b | otherSawed b | fetchObserve b =>
    cases h; exact .inr (.of_keepsRam (fetchObserve_keepsRam _ s).noRet)
  | nonfetch => cases h; exact .inr (.of_keepsRam (nonFetchObserve_keepsRam s).noRet)
  | recalcSvc iff1 iff2 => cases h; exact .inr (.of_keepsRam (recalcService_keepsRam iff1 iff2 s).noRet)
  | virtRead va quiet => cases h; exact .inr (.of_keepsRam (virtRead_keepsRam va quiet s))
  | cpuMemRead va m1 => cases h; exact .inr (.of_keepsRam (cpuMemRead_keepsRam va m1 s))
  | portRead addr => cases h; exact .inr (.of_keepsRam (portRead_keepsRam addr s))
  | portWrite addr v => cases h; exact .inr (.of_keepsRam (portWrite_keepsRam addr v s).noRet)
  | spiExchange b => cases h; exact .inr (.of_keepsRam (spiExchange_keepsRam b s))
  | _ => cases h; exact .inr (.of_keepsRam (.of_same rfl rfl rfl rfl rfl))

theorem exec_params {i : Instr} {s t : State} (h : exec i s = .next t) : t.params = s.params := by
  obtain ⟨p, -, rfl⟩ | e := exec_effect h
  · rfl
  · exact e.params

theorem exec_effect_of_ne_reset {i : Instr} {s t : State} (h : exec i s = .next t) (hr : ∀ p, i ≠ .reset p) :
    Effect i s t :=
  (exec_effect h).resolve_left fun ⟨p, hp, _⟩ => hr p hp

/-! ## The invariant -/

/-- The invariant reads neither the requests waiting nor what the step records. -/
theorem Inv.congr {s t : State} (hs : Inv s) (hcs : t.cs = s.cs) (hpc : t.portC = s.portC) (hram : t.ram = s.ram)
    (hrom : t.rom = s.rom) : Inv t where
  csCached := by rw [hcs, hpc]; exact hs.csCached
  ramWf := hram ▸ hs.ramWf
  romWf := hrom ▸ hs.romWf
  ramBelow := hram ▸ hs.ramBelow
  romBelow := hrom ▸ hs.romBelow

theorem resetWith_inv (p : ResetParams) (s : State) : Inv (resetWith p s) where
  csCached := rfl
  ramWf := loadRam_wf p.image [] rfl
  romWf := loadRom_wf p.image [] rfl
  ramBelow := loadRam_below p.image [] rfl
  romBelow := loadRom_below p.image [] rfl

theorem Effect.ram_wf {i : Instr} {s t : State} (e : Effect i s t) (h : Memory.wf s.ram = true) :
    Memory.wf t.ram = true := by
  obtain hm | ⟨a, v, -, hm⟩ := e.ram <;> rw [hm]
  · exact h
  · exact put_wf _ _ v h

theorem Effect.ram_below {i : Instr} {s t : State} (e : Effect i s t) (h : Memory.below (2 ^ 20) s.ram = true) :
    Memory.below (2 ^ 20) t.ram = true := by
  obtain hm | ⟨a, v, -, hm⟩ := e.ram <;> rw [hm]
  · exact h
  · exact put_below _ _ _ v (maskPhys a).isLt h

theorem Keeps.csCached {s t : State} (k : Keeps s t) (h : s.cs = selectOf s.portC) : t.cs = selectOf t.portC := by
  obtain ⟨hcs, hpc⟩ | hnew := k.select
  · rw [hcs, hpc, h]
  · exact hnew

theorem exec_inv {i : Instr} {s t : State} (hs : Inv s) (h : exec i s = .next t) : Inv t := by
  obtain ⟨p, -, rfl⟩ | e := exec_effect h
  · exact (resetWith_inv p s).congr rfl rfl rfl rfl
  · exact {
      csCached := e.csCached hs.csCached
      ramWf := e.ram_wf hs.ramWf
      romWf := e.rom ▸ hs.romWf
      ramBelow := e.ram_below hs.ramBelow
      romBelow := e.rom ▸ hs.romBelow }

/-! ## The obligations -/

/-- Settles O10: at reset both arrays are empty, and the cache is set from port C. -/
theorem resetStateMeetsInv : Obligations.ResetStateMeetsInv :=
  ⟨rfl, reset_memory_wf.1, reset_memory_wf.2, rfl, rfl⟩

/-- Settles O11: a step idles, or performs one operation, which keeps the invariant. -/
theorem stepKeepsInv : Obligations.StepKeepsInv := by
  intro s t hs h
  obtain ⟨-, rfl⟩ | ⟨waiting, q, rest, i, u, -, -, -, -, hu, rfl⟩ := step_next s t h
  · exact hs
  · have hstart : Inv (s.takeRequest (waiting ++ rest)) := hs.congr rfl rfl rfl rfl
    exact (exec_inv hstart hu).congr rfl rfl rfl rfl

/-- Settles O12: the reset values by evaluation; nothing is stored, so every byte is the free initial value. -/
theorem resetStateHoldsItsValues : Obligations.ResetStateHoldsItsValues :=
  ⟨rfl, rfl, rfl, rfl, rfl, rfl, rfl, fun _ => rfl, fun _ => rfl⟩

/-- Settles O15: a step idles, or performs one operation, which keeps the run parameters, RESET too. -/
theorem stepKeepsTheRunParameters : Obligations.StepKeepsTheRunParameters := by
  intro s t h
  obtain ⟨-, rfl⟩ | ⟨waiting, q, rest, i, u, -, -, -, -, hu, rfl⟩ := step_next s t h
  · rfl
  · calc (u.finish (cpuAfter q i s u)).params
        _ = u.params := rfl
        _ = (s.takeRequest (waiting ++ rest)).params := exec_params hu
        _ = s.params := rfl

/-- Settles O16: no effect but RESET's touches ROM. -/
theorem onlyResetWritesRom : Obligations.OnlyResetWritesRom := by
  intro i s t h hr
  have hrom : t.rom = s.rom := (exec_effect_of_ne_reset h hr).rom
  exact ⟨hrom, romAt_congr s t hrom⟩

/-- Settles O17: an effect on RAM comes from one of the five write operations, all of them excluded. -/
theorem onlyWriteOperationsChangeRam : Obligations.OnlyWriteOperationsChangeRam := by
  intro i s t h hr hmemw hphys hvirt
  have hram : t.ram = s.ram := by
    obtain hsame | ⟨a, v, hw, -⟩ := (exec_effect_of_ne_reset h hr).ram
    · exact hsame
    · obtain ⟨off, hi, -⟩ | ⟨off, hi, -⟩ | hi | ⟨va, -, hi | hi⟩ := hw
      · exact absurd hi (hmemw off v).1
      · exact absurd hi (hmemw off v).2
      · exact absurd hi (hphys a v)
      · exact absurd hi (hvirt va v).1
      · exact absurd hi (hvirt va v).2
  exact ⟨hram, ramAt_congr s t hram⟩

end Sys2Proof.Machine
end

