-- ==== Sys2Proof/Proofs/Memory.lean ====
section
/-! PROOFS. Memory accesses (40_bus_memory.md): every kind of read is a physical read and every kind of write a physical
write, decoded under port A at the moment of the access. -/

namespace Sys2Proof.Machine

/-! ## The halves as physical addresses -/

theorem testBit_of_baseOffset (off : BitVec 19) : off.toNat.testBit 19 = false :=
  Nat.testBit_lt_two_pow off.isLt

theorem testBit_of_extOffset (off : BitVec 19) : (2 ^ 19 + off.toNat).testBit 19 = true := by
  rw [Nat.testBit_two_pow_add_eq, testBit_of_baseOffset]
  rfl

theorem baseRead_eq_physByte (s : State) (off : BitVec 19) : baseRead s (baseAddr off) = physByte s off.toNat := by
  simp [physByte, extendedHalf_maskPhys, testBit_of_baseOffset, baseAddr_eq_maskPhys]

theorem extRead_eq_physByte (s : State) (off : BitVec 19) :
    extRead s (extAddr off) = physByte s (2 ^ 19 + off.toNat) := by
  rw [physByte, extendedHalf_maskPhys, testBit_of_extOffset, extAddr_eq_maskPhys, if_pos rfl]

theorem baseWrite_eq_physWrite (off : BitVec 19) (v : Byte) (s : State) :
    baseWrite (baseAddr off) v s = physWrite off.toNat v s := by
  simp [physWrite, extendedHalf_maskPhys, testBit_of_baseOffset, baseAddr_eq_maskPhys]

theorem extWrite_eq_physWrite (off : BitVec 19) (v : Byte) (s : State) :
    extWrite (extAddr off) v s = physWrite (2 ^ 19 + off.toNat) v s := by
  rw [physWrite, extendedHalf_maskPhys, testBit_of_extOffset, extAddr_eq_maskPhys, if_pos rfl]

/-! ## Physical and virtual accesses -/

/-- The bank decoder's read (R130 to R132). -/
theorem physByte_eq (s : State) (a : Nat) :
    physByte s a =
      if a.testBit 19 then (if s.portA.getLsbD 2 then s.ramAt (a % 2 ^ 20) else 0xFF)
      else (if s.portA.getLsbD 3 then s.romAt (a % 2 ^ 20) else s.ramAt (a % 2 ^ 20)) := by
  rw [physByte, extendedHalf_maskPhys, extRead, baseRead, maskPhys_toNat]
  rfl

/-- The bank decoder's write (R133 to R135). -/
theorem physWrite_ramAt (a : Nat) (v : Byte) (s : State) (x : Nat) :
    (physWrite a v s).ramAt x = if x = a % 2 ^ 20 ∧ s.storesTo a = true then v else s.ramAt x := by
  rw [physWrite, extendedHalf_maskPhys, State.storesTo]
  cases a.testBit 19
  · simp [baseWrite_ramAt, maskPhys_toNat]
  · simp [extWrite_ramAt, maskPhys_toNat]

/-- A virtual read is a physical read of the unmasked answer, since the decoder masks again. -/
theorem virtByte_eq (s : State) (va : VirtAddr) : virtByte s va = physByte s (s.translateAnswer va) := by
  simp only [virtByte, State.physOf, physByte, maskPhys_mask]

theorem virtWrite_ramAt (va : VirtAddr) (v : Byte) (s : State) (x : Nat) :
    (virtWrite va v s).ramAt x =
      if x = s.translateAnswer va % 2 ^ 20 ∧ s.storesTo (s.translateAnswer va) = true then v else s.ramAt x := by
  have hmask : physWrite (s.physOf va).toNat v (s.call (.translate va)) =
      physWrite (s.translateAnswer va) v (s.call (.translate va)) := by
    simp only [State.physOf, physWrite, maskPhys_mask]
  calc (virtWrite va v s).ramAt x
      _ = (physWrite (s.physOf va).toNat v (s.call (.translate va))).ramAt x := rfl
      _ = _ := by rw [hmask, physWrite_ramAt]; rfl

/-! ## The byte that a read leaves on the bus -/

theorem fetchObserve_ret (b : Byte) (s : State) : (fetchObserve b s).ret = s.ret := by
  unfold fetchObserve
  split <;> rfl

theorem nonFetchObserve_ret (s : State) : (nonFetchObserve s).ret = s.ret := by
  obtain ⟨d, h, -⟩ := nonFetchObserve_eq s
  rw [h, setDet_ret]

theorem virtRead_ret (va : VirtAddr) (quiet : Bool) (s : State) :
    (virtRead va quiet s).ret = some (physByte s (s.translateAnswer va)) := by
  obtain ⟨d, h⟩ := virtRead_eq va quiet s
  rw [h, virtByte_eq]

/-- The detector's step on the byte read leaves the byte on the bus. -/
theorem cpuMemRead_ret (va : VirtAddr) (m1 : Bool) (s : State) :
    (cpuMemRead va m1 s).ret = some (physByte s (s.translateAnswer va)) := by
  cases m1
  · exact (nonFetchObserve_ret _).trans (virtRead_ret va false s)
  · exact (fetchObserve_ret _ _).trans (virtRead_ret va false s)

/-! ## Every kind of access -/

/-- A read of any kind returns the physical byte at its address. -/
theorem exec_of_readsMemory {i : Instr} {s : State} {a : Nat} (h : ReadsMemory i s a) :
    ∃ u, exec i s = .next u ∧ u.ret = some (physByte s a) := by
  obtain ⟨off, rfl, rfl⟩ | ⟨off, rfl, rfl⟩ | rfl | ⟨va, rfl, ⟨quiet, rfl⟩ | ⟨m1, rfl⟩⟩ := h
  · exact ⟨_, rfl, congrArg some (baseRead_eq_physByte s off)⟩
  · exact ⟨_, rfl, congrArg some (extRead_eq_physByte s off)⟩
  · exact ⟨_, rfl, rfl⟩
  · exact ⟨_, rfl, virtRead_ret va quiet s⟩
  · exact ⟨_, rfl, cpuMemRead_ret va m1 s⟩

/-- A write of any kind stores its byte at its masked address where the bank bits allow it, and nowhere else. -/
theorem exec_of_writesMemory {i : Instr} {s : State} {a : Nat} {w : Byte} (h : WritesMemory i s a w) :
    ∃ u, exec i s = .next u ∧
      ∀ y, u.ramAt y = if y = a % 2 ^ 20 ∧ s.storesTo a = true then w else s.ramAt y := by
  obtain ⟨off, rfl, rfl⟩ | ⟨off, rfl, rfl⟩ | rfl | ⟨va, rfl, rfl | rfl⟩ := h
  · refine ⟨_, rfl, fun y => ?_⟩
    rw [baseWrite_eq_physWrite]
    exact physWrite_ramAt off.toNat w s y
  · refine ⟨_, rfl, fun y => ?_⟩
    rw [extWrite_eq_physWrite]
    exact physWrite_ramAt (2 ^ 19 + off.toNat) w s y
  · exact ⟨_, rfl, physWrite_ramAt a w s⟩
  · exact ⟨_, rfl, virtWrite_ramAt va w s⟩
  · exact ⟨_, rfl, virtWrite_ramAt va w s⟩

/-! ## The obligation -/

/-- A write of port A stores the bank bits and keeps both arrays. -/
theorem exec_outPpiA (x : BitVec 1) (v : Byte) (s : State) :
    ∃ t, exec (.outPpiA x v) s = .next t ∧ t.portA = v ∧ t.ram = s.ram ∧ t.rom = s.rom := by
  have hkeep := ppiWrite_keepsRam 0 v s
  refine ⟨_, rfl, ?_, hkeep.ram, hkeep.rom⟩
  calc ((ppiWrite 0 v s).noRet).portA
      _ = (csRecalc (s.setPortA v)).portA := rfl
      _ = v := by rw [csRecalc_eq]; rfl

/-- Settles O25: an access reads port A when it is made, and port A then holds the byte written. -/
theorem bankWriteSwitchesTheNextAccess : Obligations.BankWriteSwitchesTheNextAccess := by
  intro x v s
  obtain ⟨t, ht, hport, hram, hrom⟩ := exec_outPpiA x v s
  refine ⟨t, ht, fun i a hi => ?_, fun i a w hi => ?_⟩
  · obtain ⟨u, hu, hret⟩ := exec_of_readsMemory hi
    refine ⟨u, hu, ?_⟩
    rw [hret, physByte_eq, hport, ramAt_congr s t hram, romAt_congr s t hrom]
  · obtain ⟨u, hu, hstore⟩ := exec_of_writesMemory hi
    refine ⟨u, hu, fun y => ?_⟩
    have hbits : t.storesTo a = if a.testBit 19 then v.getLsbD 2 else !v.getLsbD 3 := by
      rw [← hport]
      rfl
    rw [hstore, hbits, ramAt_congr s t hram]

end Sys2Proof.Machine
end

