-- ==== Sys2Proof/Proofs/PortFrames.lean ====
section
/-! PROOFS. What the port operations leave unchanged (41_io_port_decoder.md R173): a read everything but the bus, a
write everything but what its address selects. -/

namespace Sys2Proof.Machine

/-! ## Port reads -/

/-- A port read ends with a byte on the bus, and touches besides only what was sent out and what was answered. -/
def PutsByteOnBus (s t : State) : Prop :=
  ∃ b h a d, t = { s with ret := some b, history := h, answers := a, diags := d }

/-- Calls and reports made before the read are among what it may touch. -/
theorem PutsByteOnBus.after_claimCheck {d : Dir} {addr : PortAddr} {s t : State}
    (h : PutsByteOnBus (claimCheck d addr s) t) : PutsByteOnBus s t := by
  obtain ⟨b, hist, ans, diags, rfl⟩ := h
  exact ⟨b, hist, ans, diags, rfl⟩

theorem PutsByteOnBus.ret {s t : State} (h : PutsByteOnBus s t) : ∃ b, t.ret = some b := by
  obtain ⟨b, -, -, -, rfl⟩ := h
  exact ⟨b, rfl⟩

theorem PutsByteOnBus.sameBlock {s t : State} (h : PutsByteOnBus s t) : SameBlock s t := by
  obtain ⟨-, -, -, -, rfl⟩ := h
  constructor <;> rfl

theorem PutsByteOnBus.sameRun {s t : State} (h : PutsByteOnBus s t) : SameRun s t := by
  obtain ⟨-, -, -, -, rfl⟩ := h
  constructor <;> rfl

theorem ppiRead_putsByte (sub : Nat) (s : State) : PutsByteOnBus s (ppiRead sub s) := by
  match sub with
  | 0 | 1 | 2 | 3 | _ + 4 => exact ⟨_, _, _, _, rfl⟩

theorem targetRead_putsByte (t : PortTarget) (p : Byte) (s : State) : PutsByteOnBus s (targetRead t p s) := by
  cases t with
  | ppi sub => exact ppiRead_putsByte sub.toNat s
  | ide sub | fdc sub | led | traceLo | traceHi | unmapped => exact ⟨_, _, _, _, rfl⟩

theorem claimedRead_putsByte (addr : PortAddr) (s : State) : PutsByteOnBus s (claimedRead addr s) :=
  ⟨_, _, _, _, rfl⟩

theorem portRead_putsByte (addr : PortAddr) (s : State) : PutsByteOnBus s (portRead addr s) := by
  cases h : s.claimsAnswer addr
  · rw [portRead_unclaimed addr s h]
    exact (targetRead_putsByte _ _ _).after_claimCheck
  · rw [portRead_claimed addr s h]
    exact (claimedRead_putsByte _ _).after_claimCheck

/-! ## What no port write changes -/

/-- `t` has the run fields, both arrays, the detector and `S.liveIrq` of `s`. -/
structure PortWriteKeeps (s t : State) : Prop extends SameRun s t where
  ram     : t.ram = s.ram
  rom     : t.rom = s.rom
  det     : t.det = s.det
  liveIrq : t.liveIrq = s.liveIrq

/-- A PPI write is a recalculation after a store into one of the four PPI registers. -/
theorem ppiWrite_keeps (sub : BitVec 2) (v : Byte) (s : State) : PortWriteKeeps s (ppiWrite sub.toNat v s) := by
  obtain ⟨-, h⟩ | ⟨-, h⟩ | ⟨-, h⟩ | ⟨-, -, h⟩ | ⟨-, -, h⟩ := ppiWrite_cases sub v s <;>
    rw [h, csRecalc_eq] <;>
    exact ⟨⟨rfl, rfl, rfl, rfl⟩, rfl, rfl, rfl, rfl⟩

theorem targetWrite_keeps (t : PortTarget) (p v : Byte) (s : State) : PortWriteKeeps s (targetWrite t p v s) := by
  cases t with
  | ppi sub => exact ppiWrite_keeps sub v s
  | ide sub | fdc sub | led | traceLo | traceHi | unmapped => exact ⟨⟨rfl, rfl, rfl, rfl⟩, rfl, rfl, rfl, rfl⟩

theorem PortWriteKeeps.after_claimCheck {d : Dir} {addr : PortAddr} {s t : State}
    (h : PortWriteKeeps (claimCheck d addr s) t) : PortWriteKeeps s t :=
  ⟨⟨h.params, h.pending, h.started, h.cpuAt⟩, h.ram, h.rom, h.det, h.liveIrq⟩

theorem portWrite_keeps (addr : PortAddr) (v : Byte) (s : State) : PortWriteKeeps s (portWrite addr v s) := by
  cases h : s.claimsAnswer addr
  · rw [portWrite_unclaimed addr v s h]
    exact (targetWrite_keeps _ _ _ _).after_claimCheck
  · rw [portWrite_claimed addr v s h]
    exact ⟨⟨rfl, rfl, rfl, rfl⟩, rfl, rfl, rfl, rfl⟩

/-! ## A claimed write -/

/-- The claim check and the controller's write, with the request that it may make inside the call (R154, R240). -/
theorem portWrite_of_claimed {addr : PortAddr} {s : State} (v : Byte) (h : s.claimsAnswer addr = true) :
    portWrite addr v s = { s with
      diags := (portWrite addr v s).diags, history := .ctlWrite addr v :: .claims addr :: s.history
      recalc := s.recalc || (s.call (.claims addr)).ctlWriteRequests addr v
      answers := { s.answers with claims := s.answers.claims.tail, ctlWrite := s.answers.ctlWrite.tail } } := by
  rw [portWrite_claimed addr v s h, claimedWrite, recalcRequestIf_eq]
  rfl

/-! ## An unclaimed write: the fields that each target owns -/

/-- From `s` to `u`, a write of `v` to target `t` changes a field only where `t` owns it (R173). A field left out of a
proof is one that the write does not touch. -/
structure WritesOnly (t : PortTarget) (v : Byte) (s u : State) : Prop where
  led    : u.led = s.led ∨ t = .led := by exact .inl rfl
  trace  : u.trace = s.trace ∨ t = .traceLo ∨ t = .traceHi := by exact .inl rfl
  recalc : u.recalc = s.recalc ∨ ∃ sub, t = .fdc sub := by exact .inl rfl
  cs     : u.cs = s.cs ∨ ∃ sub, t = .ppi sub := by exact .inl rfl
  portA  : u.portA = s.portA ∨ t = .ppi 0 := by exact .inl rfl
  portB  : u.portB = s.portB ∨ t = .ppi 1 := by exact .inl rfl
  portC  : u.portC = s.portC ∨ t = .ppi 2 ∨ (t = .ppi 3 ∧ v.getLsbD 7 = false) := by exact .inl rfl
  ctrl   : u.ctrl = s.ctrl ∨ (t = .ppi 3 ∧ v.getLsbD 7 = true) := by exact .inl rfl

/-- Each PPI sub-address stores into its own register, the control address as bit 7 of the byte says; then the cache is
recalculated. -/
theorem ppiWrite_writesOnly (sub : BitVec 2) (v : Byte) (s : State) :
    WritesOnly (.ppi sub) v s (ppiWrite sub.toNat v s) := by
  obtain ⟨rfl, h⟩ | ⟨rfl, h⟩ | ⟨rfl, h⟩ | ⟨rfl, hv, h⟩ | ⟨rfl, hv, h⟩ := ppiWrite_cases sub v s <;>
    rw [h, csRecalc_eq]
  · exact { cs := .inr ⟨0, rfl⟩, portA := .inr rfl }
  · exact { cs := .inr ⟨1, rfl⟩, portB := .inr rfl }
  · exact { cs := .inr ⟨2, rfl⟩, portC := .inr (.inl rfl) }
  · exact { cs := .inr ⟨3, rfl⟩, ctrl := .inr ⟨rfl, hv⟩ }
  · exact { cs := .inr ⟨3, rfl⟩, portC := .inr (.inr ⟨rfl, hv⟩) }

theorem targetWrite_writesOnly (t : PortTarget) (p v : Byte) (s : State) : WritesOnly t v s (targetWrite t p v s) := by
  cases t with
  | ppi sub => exact ppiWrite_writesOnly sub v s
  | fdc sub => exact { recalc := .inr ⟨sub, rfl⟩ }
  | led => exact { led := .inr rfl }
  | traceLo => exact { trace := .inr (.inl rfl) }
  | traceHi => exact { trace := .inr (.inr rfl) }
  | ide sub | unmapped => exact {}

/-- The claim check writes no field that a target owns. -/
theorem portWrite_writesOnly {addr : PortAddr} {s : State} (v : Byte) (h : s.claimsAnswer addr = false) :
    WritesOnly (portDecode s.params.ideConfigured (maskPort addr)) v s (portWrite addr v s) := by
  rw [portWrite_unclaimed addr v s h]
  obtain ⟨hled, htrace, hrecalc, hcs, hportA, hportB, hportC, hctrl⟩ :=
    targetWrite_writesOnly (portDecode s.params.ideConfigured (maskPort addr)) (maskPort addr) v
      (claimCheck .write addr s)
  exact ⟨hled, htrace, hrecalc, hcs, hportA, hportB, hportC, hctrl⟩

/-! ## The addresses of a target -/

/-- The addresses that can select a target, by their low byte (R93, R152). Any address may be unmapped. -/
def SelectedAt (addr : PortAddr) : PortTarget → Prop
  | .ide _ => addr.extractLsb' 3 5 = 0b00010#5
  | .fdc _ => addr.extractLsb' 3 5 = 0b01110#5
  | .ppi sub => addr.extractLsb' 3 5 = 0b01111#5 ∧ addr.extractLsb' 0 2 = sub
  | .led => addr.extractLsb' 0 8 = 0x0D
  | .traceLo => addr.extractLsb' 0 8 = 0xFD
  | .traceHi => addr.extractLsb' 0 8 = 0xFE
  | .unmapped => True

/-- Eight consecutive ports from a multiple of eight are those whose bits 7:3 are the window's. -/
theorem window_of_range {addr : PortAddr} {k : BitVec 5} (hfirst : 8 * k.toNat ≤ (maskPort addr).toNat)
    (hlast : (maskPort addr).toNat ≤ 8 * k.toNat + 7) : addr.extractLsb' 3 5 = k := by
  have hk := k.isLt
  apply BitVec.eq_of_toNat_eq
  simp only [maskPort, BitVec.extractLsb'_toNat, Nat.shiftRight_eq_div_pow] at *
  omega

theorem portDecode_selectedAt (ide : Bool) (addr : PortAddr) : SelectedAt addr (portDecode ide (maskPort addr)) := by
  unfold portDecode
  split_ifs with hide hfdc hppi hled hlo hhi
  · obtain ⟨hfirst, hlast, -⟩ := hide
    exact window_of_range (k := 0b00010#5) hfirst hlast
  · obtain ⟨hfirst, hlast⟩ := hfdc
    exact window_of_range (k := 0b01110#5) hfirst hlast
  · obtain ⟨hfirst, hlast⟩ := hppi
    refine ⟨window_of_range (k := 0b01111#5) hfirst hlast, ?_⟩
    apply BitVec.eq_of_toNat_eq
    simp [maskPort]
  · exact hled
  · exact hlo
  · exact hhi
  · trivial

theorem selectedAt_of_target {ide : Bool} {addr : PortAddr} {t : PortTarget} (h : portDecode ide (maskPort addr) = t) :
    SelectedAt addr t := h ▸ portDecode_selectedAt ide addr

/-! ## The obligations -/

/-- Settles O56: a port read, claimed or not, only puts a byte on the bus. -/
theorem portReadsChangeNoBlockState : Obligations.PortReadsChangeNoBlockState := by
  intro addr s
  have hbus := portRead_putsByte addr s
  obtain ⟨b, hb⟩ := hbus.ret
  exact ⟨_, b, rfl, hb, hbus.sameBlock, hbus.sameRun⟩

/-- Settles O57: the fields that no port write touches, the claimed write, and for an unclaimed one each field that
changed is owned by the target, which is selected at its own addresses only. -/
theorem portWritesChangeOnlyTheirDevice : Obligations.PortWritesChangeOnlyTheirDevice := by
  intro addr v s
  obtain ⟨⟨hparams, hpending, hstarted, hcpu⟩, hram, hrom, hdet, hlive⟩ := portWrite_keeps addr v s
  refine ⟨_, rfl, rfl, ⟨hparams, hpending, hstarted, hcpu⟩, hram, fun x => ramAt_congr s _ hram x, hrom, hdet, hlive,
    fun hclaim => congrArg State.noRet (portWrite_of_claimed v hclaim), fun hclaim => ?_⟩
  obtain ⟨hled, htrace, hrecalc, hcs, hportA, hportB, hportC, hctrl⟩ := portWrite_writesOnly v hclaim
  refine ⟨fun hn => hled.resolve_right fun ht => hn (selectedAt_of_target ht),
    fun ⟨hnlo, hnhi⟩ => htrace.resolve_right fun ht => ?_,
    fun hn => hrecalc.resolve_right fun ⟨_, ht⟩ => hn (selectedAt_of_target ht),
    fun hn => hcs.resolve_right fun ⟨_, ht⟩ => hn (selectedAt_of_target ht).1,
    fun hn => hportA.resolve_right fun ht => hn (selectedAt_of_target ht),
    fun hn => hportB.resolve_right fun ht => hn (selectedAt_of_target ht),
    fun hn => hportC.resolve_right fun ht => hn ?_,
    fun hn => hctrl.resolve_right fun ⟨ht, hv⟩ => hn ?_⟩
  · exact ht.elim (fun hlo => hnlo (selectedAt_of_target hlo)) fun hhi => hnhi (selectedAt_of_target hhi)
  · obtain ht | ⟨ht, hv⟩ := ht <;> obtain ⟨hwindow, hsub⟩ := selectedAt_of_target ht
    · exact ⟨hwindow, .inl hsub⟩
    · exact ⟨hwindow, .inr ⟨hsub, hv⟩⟩
  · obtain ⟨hwindow, hsub⟩ := selectedAt_of_target ht
    exact ⟨hwindow, hsub, hv⟩

end Sys2Proof.Machine
end

