-- ==== Sys2Proof/Proofs/Encoding.lean ====
section
/-! PROOFS. The encoding's statements (30_encoding.md): each layout of bits as an equivalence between what the encoder
writes and what the decoder reads, the port map as the row that each port is in, and from these the two directions of
the round trip between operations and requests. -/

namespace Sys2Proof

/-! ## Bits as arithmetic

Concatenation, extraction and a single bit, each as a natural number: a layout of literal widths is then linear
arithmetic. -/

theorem toNat_append_eq_add {m n : Nat} (x : BitVec m) (y : BitVec n) :
    (x ++ y).toNat = x.toNat * 2 ^ n + y.toNat := by
  rw [BitVec.toNat_append, ← Nat.shiftLeft_add_eq_or_of_lt y.isLt, Nat.shiftLeft_eq]

theorem toNat_extractLsb'_eq_div_mod {w : Nat} (x : BitVec w) (start len : Nat) :
    (x.extractLsb' start len).toNat = x.toNat / 2 ^ start % 2 ^ len := by
  rw [BitVec.extractLsb'_toNat, Nat.shiftRight_eq_div_pow]

theorem getLsbD_eq_iff_toNat {w : Nat} (x : BitVec w) (k : Nat) (b : Bool) :
    x.getLsbD k = b ↔ x.toNat / 2 ^ k % 2 = b.toNat := by
  rw [← Nat.toNat_testBit, BitVec.getLsbD]
  cases x.toNat.testBit k <;> cases b <;> decide

/-! ## Operand bytes (log entry 2) -/

theorem toBytes16_eq_iff (a : BitVec 16) (b0 b1 : Byte) : toBytes16 a = [b0, b1] ↔ bytes16 b0 b1 = a := by
  simp only [toBytes16, bytes16, List.cons.injEq, and_true, ← BitVec.toNat_inj, toNat_append_eq_add,
    toNat_extractLsb'_eq_div_mod]
  omega

@[simp] theorem toBytes16_bytes16 (b0 b1 : Byte) : toBytes16 (bytes16 b0 b1) = [b0, b1] :=
  (toBytes16_eq_iff _ b0 b1).2 rfl

@[simp] theorem bytes16_extractLsb' (a : BitVec 16) : bytes16 (a.extractLsb' 0 8) (a.extractLsb' 8 8) = a :=
  (toBytes16_eq_iff a _ _).1 rfl

theorem toBytes32_eq_iff (a : Nat) (b0 b1 b2 b3 : Byte) :
    a < 2 ^ 32 ∧ toBytes32 a = [b0, b1, b2, b3] ↔ bytes32 b0 b1 b2 b3 = a := by
  simp only [toBytes32, bytes32, List.cons.injEq, and_true, ← BitVec.toNat_inj, toNat_append_eq_add,
    toNat_extractLsb'_eq_div_mod, BitVec.toNat_ofNat]
  omega

theorem bytes32_extractLsb' {a : Nat} (h : a < 2 ^ 32) :
    bytes32 ((BitVec.ofNat 32 a).extractLsb' 0 8) ((BitVec.ofNat 32 a).extractLsb' 8 8)
      ((BitVec.ofNat 32 a).extractLsb' 16 8) ((BitVec.ofNat 32 a).extractLsb' 24 8) = a :=
  (toBytes32_eq_iff a _ _ _ _).1 ⟨h, rfl⟩

theorem withBit_eq_ok_iff {x : Byte} {k : Bool → Instr} {i : Instr} :
    withBit x k = .ok i ↔ ∃ b, bitByte b = x ∧ k b = i := by
  constructor
  · intro h
    unfold withBit at h
    split_ifs at h with h0 h1
    · exact ⟨false, h0.symm, Except.ok.inj h⟩
    · exact ⟨true, h1.symm, Except.ok.inj h⟩
  · rintro ⟨b, rfl, rfl⟩
    cases b <;> rfl

/-- The two enables of RECALC_SVC in one byte. -/
theorem enableByte_eq_iff (iff1 iff2 : Bool) (f : Byte) :
    (0b000000#6) ++ BitVec.ofBool iff2 ++ BitVec.ofBool iff1 = f ↔
      f.extractLsb' 2 6 = 0 ∧ f.getLsbD 0 = iff1 ∧ f.getLsbD 1 = iff2 := by
  have hiff1 := iff1.toNat_lt
  have hiff2 := iff2.toNat_lt
  simp only [← BitVec.toNat_inj, toNat_append_eq_add, toNat_extractLsb'_eq_div_mod, getLsbD_eq_iff_toNat,
    BitVec.toNat_ofBool, BitVec.toNat_ofNat, BitVec.ofNat_eq_ofNat]
  omega

theorem decodeEnables_eq_ok_iff {c : DecodeCtx} {f : Byte} {i : Instr} :
    decodeEvent c .recalcSvc [f] = .ok i ↔
      ∃ iff1 iff2, (0b000000#6) ++ BitVec.ofBool iff2 ++ BitVec.ofBool iff1 = f ∧ .recalcSvc iff1 iff2 = i := by
  show (if f.extractLsb' 2 6 = 0 then _ else _) = _ ↔ _
  simp only [enableByte_eq_iff]
  by_cases hfits : f.extractLsb' 2 6 = 0
  · rw [if_pos hfits]
    simp [hfits]
  · rw [if_neg hfits]
    simp only [hfits, false_and, exists_false, reduceCtorEq]

/-! ## Format PA20 (R91) -/

/-- An address by its half and its offset. -/
theorem toBytes20_eq_iff (half : Bool) (off : BitVec 19) (b0 b1 b2 : Byte) :
    toBytes20 (BitVec.ofBool half ++ off) = [b0, b1, b2] ↔
      b2.extractLsb' 4 4 = 0 ∧ b2.getLsbD 3 = half ∧ b2.extractLsb' 0 3 ++ b1 ++ b0 = off := by
  have hhalf := half.toNat_lt
  simp only [toBytes20, List.cons.injEq, and_true, ← BitVec.toNat_inj, toNat_append_eq_add,
    toNat_extractLsb'_eq_div_mod, getLsbD_eq_iff_toNat, BitVec.toNat_ofBool, BitVec.toNat_ofNat, BitVec.ofNat_eq_ofNat]
  omega

theorem decodePa20_eq_ok_iff {b0 b1 b2 : Byte} {base ext : BitVec 19 → Instr} {i : Instr} :
    decodePa20 b0 b1 b2 base ext = .ok i ↔
      ∃ half off, toBytes20 (BitVec.ofBool half ++ off) = [b0, b1, b2] ∧ (bif half then ext off else base off) = i := by
  simp only [toBytes20_eq_iff, decodePa20]
  by_cases hfits : b2.extractLsb' 4 4 = 0
  · cases b2.getLsbD 3 <;> simp [hfits]
  · rw [if_neg hfits]
    simp only [hfits, false_and, exists_false, reduceCtorEq]

/-! ## The port map (R93, R152) -/

/-- A port of a window of eight, and its place in the window. -/
theorem windowPort_eq_iff (window : BitVec 5) (sub : BitVec 3) (p : Byte) :
    window ++ sub = p ↔ p.extractLsb' 3 5 = window ∧ p.extractLsb' 0 3 = sub := by
  simp only [← BitVec.toNat_inj, toNat_append_eq_add, toNat_extractLsb'_eq_div_mod]
  omega

/-- R93's mask keeps the window's bits. -/
theorem and_windowMask (p : Byte) : p &&& 0xF8 = p.extractLsb' 3 5 ++ 0#3 :=
  calc p &&& 0xF8
      _ = (p.extractLsb' 3 5 ++ p.extractLsb' 0 3) &&& (BitVec.allOnes 5 ++ 0#3) :=
        congrArg (· &&& 0xF8) ((windowPort_eq_iff _ _ p).2 ⟨rfl, rfl⟩).symm
      _ = p.extractLsb' 3 5 ++ 0#3 := by rw [BitVec.and_append, BitVec.and_allOnes, BitVec.and_zero]

theorem and_windowMask_eq_iff (window : BitVec 5) (p : Byte) :
    p &&& 0xF8 = window ++ 0#3 ↔ p.extractLsb' 3 5 = window := by
  rw [and_windowMask, BitVec.append_left_inj]

/-- A window is the eight ports from a multiple of eight. -/
theorem windowBits_eq_iff (window : BitVec 5) (p : Byte) :
    p.extractLsb' 3 5 = window ↔ 8 * window.toNat ≤ p.toNat ∧ p.toNat ≤ 8 * window.toNat + 7 := by
  rw [← BitVec.toNat_inj, toNat_extractLsb'_eq_div_mod]
  omega

theorem and_windowMask_eq_iff_range (window : BitVec 5) (p : Byte) :
    p &&& 0xF8 = window ++ 0#3 ↔ 8 * window.toNat ≤ p.toNat ∧ p.toNat ≤ 8 * window.toNat + 7 :=
  (and_windowMask_eq_iff window p).trans (windowBits_eq_iff window p)

theorem ideMask_iff (p : Byte) : p &&& 0xF8 = 0x10 ↔ 0x10 ≤ p.toNat ∧ p.toNat ≤ 0x17 :=
  and_windowMask_eq_iff_range 0b00010#5 p

theorem fdcMask_iff (p : Byte) : p &&& 0xF8 = 0x70 ↔ 0x70 ≤ p.toNat ∧ p.toNat ≤ 0x77 :=
  and_windowMask_eq_iff_range 0b01110#5 p

theorem ppiMask_iff (p : Byte) : p &&& 0xF8 = 0x78 ↔ 0x78 ≤ p.toNat ∧ p.toNat ≤ 0x7F :=
  and_windowMask_eq_iff_range 0b01111#5 p

/-- The place in a window is the distance from its first port. -/
theorem extractLsb'_sub_window (window : BitVec 5) (p : Byte) :
    (p - (window ++ 0#3)).extractLsb' 0 3 = p.extractLsb' 0 3 := by
  simp only [← BitVec.toNat_inj, toNat_append_eq_add, toNat_extractLsb'_eq_div_mod, BitVec.toNat_sub,
    BitVec.toNat_ofNat]
  omega

/-- Settles O9: each range of eight is the window that the mask selects. -/
theorem portMapSelectsByMatchAndMask : Obligations.PortMapSelectsByMatchAndMask := by
  intro ide p
  have hide : (p - 0x10).extractLsb' 0 3 = p.extractLsb' 0 3 := extractLsb'_sub_window 0b00010#5 p
  have hfdc : (p - 0x70).extractLsb' 0 3 = p.extractLsb' 0 3 := extractLsb'_sub_window 0b01110#5 p
  simp only [portDecode, hide, hfdc, ideMask_iff, fdcMask_iff, ppiMask_iff, and_assoc, and_comm (a := ide = true)]

/-- What the rows of R93 say of an unclaimed port, row by row: its bits, and the condition on the IDE device. -/
def PortSelects (ide : Bool) (p : Byte) : PortTarget → Prop
  | .ide sub => ide = true ∧ (0b00010#5) ++ sub = p
  | .fdc sub => (0b01110#5) ++ sub = p
  | .ppi sub => (0b01111#5) ++ p.extractLsb' 2 1 ++ sub = p
  | .led => 0x0D = p
  | .traceLo => 0xFD = p
  | .traceHi => 0xFE = p
  | .unmapped => unmappedPort ide p = true

/-- A PPI port: the window, the don't-care bit and the register (R94). -/
theorem ppiPort_eq_iff (x : BitVec 1) (sub : BitVec 2) (p : Byte) :
    (0b01111#5) ++ x ++ sub = p ↔ p.extractLsb' 3 5 = 0b01111#5 ∧ p.extractLsb' 2 1 = x ∧ p.extractLsb' 0 2 = sub := by
  simp only [← BitVec.toNat_inj, toNat_append_eq_add, toNat_extractLsb'_eq_div_mod, BitVec.toNat_ofNat]
  omega

theorem unmappedPort_iff (ide : Bool) (p : Byte) :
    unmappedPort ide p = true ↔ ¬(ide = true ∧ p &&& 0xF8 = 0x10) ∧ p &&& 0xF8 ≠ 0x70 ∧ p &&& 0xF8 ≠ 0x78 ∧
      p ≠ 0x0D ∧ p ≠ 0xFD ∧ p ≠ 0xFE := by
  simp only [ne_eq, ideMask_iff, fdcMask_iff, ppiMask_iff]
  simp only [unmappedPort, mappedPort, idePort, ← BitVec.toNat_inj]
  cases ide <;> simp <;> omega

theorem portSelects_portDecode (ide : Bool) (p : Byte) : PortSelects ide p (portDecode ide p) := by
  rw [portMapSelectsByMatchAndMask ide p]
  split_ifs with hide hfdc hppi hled hlo hhi
  · obtain ⟨hide, hmask⟩ := hide
    exact ⟨hide, (windowPort_eq_iff _ _ p).2 ⟨(and_windowMask_eq_iff 0b00010#5 p).1 hmask, rfl⟩⟩
  · exact (windowPort_eq_iff _ _ p).2 ⟨(and_windowMask_eq_iff 0b01110#5 p).1 hfdc, rfl⟩
  · exact (ppiPort_eq_iff _ _ p).2 ⟨(and_windowMask_eq_iff 0b01111#5 p).1 hppi, rfl, rfl⟩
  · exact hled.symm
  · exact hlo.symm
  · exact hhi.symm
  · exact (unmappedPort_iff ide p).2 ⟨hide, hfdc, hppi, hled, hlo, hhi⟩

theorem portDecode_of_portSelects {ide : Bool} {p : Byte} {t : PortTarget} (h : PortSelects ide p t) :
    portDecode ide p = t := by
  cases t with
  | ide sub =>
    obtain ⟨rfl, rfl⟩ := h
    revert sub
    decide
  | fdc sub =>
    obtain rfl := h
    revert ide sub
    decide
  | ppi sub =>
    have hp : (0b01111#5) ++ p.extractLsb' 2 1 ++ sub = p := h
    clear h
    generalize p.extractLsb' 2 1 = x at hp
    subst hp
    revert ide x sub
    decide
  | led | traceLo | traceHi =>
    obtain rfl := h
    revert ide
    decide
  | unmapped =>
    obtain ⟨hide, hfdc, hppi, hled, hlo, hhi⟩ := (unmappedPort_iff ide p).1 h
    rw [portMapSelectsByMatchAndMask ide p, if_neg hide, if_neg hfdc, if_neg hppi, if_neg hled, if_neg hlo, if_neg hhi]

@[simp] theorem portDecode_ide (sub : BitVec 3) : portDecode true ((0b00010#5) ++ sub) = .ide sub :=
  portDecode_of_portSelects ⟨rfl, rfl⟩

@[simp] theorem portDecode_fdc (ide : Bool) (sub : BitVec 3) : portDecode ide ((0b01110#5) ++ sub) = .fdc sub :=
  portDecode_of_portSelects (t := .fdc sub) rfl

@[simp] theorem extractLsb'_ppiPort (x : BitVec 1) (sub : BitVec 2) :
    ((0b01111#5) ++ x ++ sub).extractLsb' 2 1 = x := by
  obtain ⟨-, hx, -⟩ := (ppiPort_eq_iff x sub _).1 rfl
  exact hx

@[simp] theorem portDecode_ppi (ide : Bool) (x : BitVec 1) (sub : BitVec 2) :
    portDecode ide ((0b01111#5) ++ x ++ sub) = .ppi sub := by
  apply portDecode_of_portSelects
  rw [PortSelects, extractLsb'_ppiPort]

@[simp] theorem portDecode_led (ide : Bool) : portDecode ide 0x0D#8 = .led := portDecode_of_portSelects (t := .led) rfl

@[simp] theorem portDecode_traceLo (ide : Bool) : portDecode ide 0xFD#8 = .traceLo :=
  portDecode_of_portSelects (t := .traceLo) rfl

@[simp] theorem portDecode_traceHi (ide : Bool) : portDecode ide 0xFE#8 = .traceHi :=
  portDecode_of_portSelects (t := .traceHi) rfl

/-! ## The control byte and the fetched byte (R96, R98) -/

/-- The byte of BSR. -/
theorem bsrByte_eq_iff (ign n : BitVec 3) (b : Bool) (v : Byte) :
    (0b0#1) ++ ign ++ n ++ BitVec.ofBool b = v ↔
      v.getLsbD 7 = false ∧ v.extractLsb' 4 3 = ign ∧ v.extractLsb' 1 3 = n ∧ v.getLsbD 0 = b := by
  have hb := b.toNat_lt
  simp only [← BitVec.toNat_inj, toNat_append_eq_add, toNat_extractLsb'_eq_div_mod, getLsbD_eq_iff_toNat,
    BitVec.toNat_ofBool, BitVec.toNat_ofNat, Bool.toNat_false]
  omega

theorem decodePpicw_bsr (ign n : BitVec 3) (b : Bool) :
    decodePpicw ((0b0#1) ++ ign ++ n ++ BitVec.ofBool b) = .bsr ign n b := by
  obtain ⟨hmode, hign, hn, hb⟩ := (bsrByte_eq_iff ign n b _).1 rfl
  rw [decodePpicw, hmode, hign, hn, hb]
  rfl

theorem wellFormed_otherIdle_iff {c : DecodeCtx} {b : Byte} :
    WellFormed c (.otherIdle b) ↔
      c.det = .idle ∧ b ≠ Config.pfxIx ∧ b ≠ Config.pfxIy ∧ b ≠ Config.pfxBit ∧ b ≠ Config.pfxExt := by
  simp [WellFormed, Instr.wellFormed, and_assoc, Config.pfxIx, Config.pfxIy, Config.pfxBit, Config.pfxExt]

theorem wellFormed_otherSawed_iff {c : DecodeCtx} {b : Byte} :
    WellFormed c (.otherSawed b) ↔ c.det = .sawPrefixED ∧ b ≠ Config.opcReti := by
  simp [WellFormed, Instr.wellFormed, Config.opcReti]

/-! ## The bytes that RESET loads (R300) -/

theorem encodeImageByte_rom_eq_iff (i : BitVec 19) (b0 b1 b2 v w : Byte) :
    encodeImageByte (.rom i w) = [b0, b1, b2, v] ↔
      b2.getLsbD 7 = true ∧ b2.extractLsb' 3 4 = 0 ∧ b2.extractLsb' 0 3 ++ b1 ++ b0 = i ∧ v = w := by
  simp only [encodeImageByte, List.cons.injEq, and_true, ← BitVec.toNat_inj, toNat_append_eq_add,
    toNat_extractLsb'_eq_div_mod, getLsbD_eq_iff_toNat, BitVec.toNat_ofNat, BitVec.ofNat_eq_ofNat, Bool.toNat_true]
  omega

theorem encodeImageByte_ram_eq_iff (i : BitVec 20) (b0 b1 b2 v w : Byte) :
    encodeImageByte (.ram i w) = [b0, b1, b2, v] ↔
      b2.getLsbD 7 = false ∧ b2.extractLsb' 4 3 = 0 ∧ b2.extractLsb' 0 4 ++ b1 ++ b0 = i ∧ v = w := by
  simp only [encodeImageByte, List.cons.injEq, and_true, ← BitVec.toNat_inj, toNat_append_eq_add,
    toNat_extractLsb'_eq_div_mod, getLsbD_eq_iff_toNat, BitVec.toNat_ofNat, BitVec.ofNat_eq_ofNat, Bool.toNat_false]
  omega

theorem decodeImageByte_eq_ok_iff {b0 b1 b2 v : Byte} {x : ImageByte} :
    decodeImageByte b0 b1 b2 v = .ok x ↔ encodeImageByte x = [b0, b1, b2, v] := by
  unfold decodeImageByte
  cases x with
  | rom i w =>
    rw [encodeImageByte_rom_eq_iff]
    split_ifs <;> simp_all
  | ram i w =>
    rw [encodeImageByte_ram_eq_iff]
    split_ifs <;> simp_all

theorem encodeImageByte_eq_four_bytes (x : ImageByte) : ∃ b0 b1 b2 v, encodeImageByte x = [b0, b1, b2, v] := by
  cases x <;> exact ⟨_, _, _, _, rfl⟩

theorem decodeImage_flatMap (xs : List ImageByte) : decodeImage (xs.flatMap encodeImageByte) = .ok xs := by
  induction xs with
  | nil => rfl
  | cons x xs ih =>
    obtain ⟨b0, b1, b2, v, hx⟩ := encodeImageByte_eq_four_bytes x
    simp [hx, decodeImage, decodeImageByte_eq_ok_iff.2 hx, ih]

theorem flatMap_of_decodeImage {bytes : List Byte} {xs : List ImageByte} (h : decodeImage bytes = .ok xs) :
    xs.flatMap encodeImageByte = bytes := by
  fun_induction decodeImage bytes generalizing xs with
  | case1 => cases h; rfl
  | case2 b0 b1 b2 v rest e he => cases h
  | case3 b0 b1 b2 v rest x hx e he ih => cases h
  | case4 b0 b1 b2 v rest x hx ys hys ih =>
    cases h
    simp [decodeImageByte_eq_ok_iff.1 hx, ih hys]
  | case5 => cases h

theorem decodeReset_eq_ok_iff {c : DecodeCtx} {bytes : List Byte} {i : Instr} :
    decodeReset c bytes = .ok i ↔ ∃ p, c.started = false ∧ (encode (.reset p)).bytes = bytes ∧ .reset p = i := by
  constructor
  · intro h
    unfold decodeReset at h
    split at h
    · split_ifs at h with hstarted
      split at h
      · cases h
      · next image xs hxs =>
        cases h
        exact ⟨_, by simpa using hstarted, by simp [encode, flatMap_of_decodeImage hxs], rfl⟩
    · cases h
  · rintro ⟨p, hstarted, rfl, rfl⟩
    simp [encode, toBytes16, decodeReset, hstarted, decodeImage_flatMap]

/-! ## Decoding what the encoder writes -/

theorem decode_encode {c : DecodeCtx} {i : Instr} (h : WellFormed c i) : decode c (encode i) = .ok i := by
  cases i with
  | inClaimed addr | outClaimed addr v => simp [encode, decode, toBytes16]
  | inIde sub | outIde sub v =>
    have hide : c.ideConfigured = true := h
    simp [encode, decode, decodePort8Read, decodePort8Write, hide]
  | inFdc sub | outFdc sub v => simp [encode, decode, decodePort8Read, decodePort8Write]
  | inPpiA x | inPpiB x | inPpiC x | inPpiCtrl x => simp [encode, decode, decodePort8Read]
  | outPpiA x v | outPpiB x v | outPpiC x v | outPpiCtrl x v => simp [encode, decode, decodePort8Write]
  | inLed | inTraceLo | inTraceHi => simp [encode, decode, decodePort8Read]
  | outLed v | outTraceLo v | outTraceHi v => simp [encode, decode, decodePort8Write]
  | inUnmapped p | outUnmapped p v =>
    have hunmapped : portDecode c.ideConfigured p = .unmapped := portDecode_of_portSelects h
    simp [encode, decode, decodePort8Read, decodePort8Write, hunmapped]
  | modeset v => exact congrArg Except.ok (if_pos h)
  | bsr ign n b => exact congrArg Except.ok (decodePpicw_bsr ign n b)
  | pfxDd | pfxFd | pfxCb | pfxEd =>
    have hdet : c.det = .idle := eq_of_beq h
    simp only [encode, decode, hdet]
    rfl
  | opcReti =>
    have hdet : c.det = .sawPrefixED := eq_of_beq h
    simp only [encode, decode, hdet]
    rfl
  | otherIdle b =>
    obtain ⟨hdet, hdd, hfd, hcb, hed⟩ := wellFormed_otherIdle_iff.1 h
    simp only [encode, decode, decodeFetch8, hdet, if_neg hdd, if_neg hfd, if_neg hcb, if_neg hed]
  | otherSawed b =>
    obtain ⟨hdet, hreti⟩ := wellFormed_otherSawed_iff.1 h
    simp only [encode, decode, decodeFetch8, hdet, if_neg hreti]
  | memrBase off => exact decodePa20_eq_ok_iff.2 ⟨false, off, rfl, rfl⟩
  | memrExt off => exact decodePa20_eq_ok_iff.2 ⟨true, off, rfl, rfl⟩
  | memwBase off v =>
    exact decodePa20_eq_ok_iff (base := (.memwBase · v)) (ext := (.memwExt · v)) |>.2 ⟨false, off, rfl, rfl⟩
  | memwExt off v =>
    exact decodePa20_eq_ok_iff (base := (.memwBase · v)) (ext := (.memwExt · v)) |>.2 ⟨true, off, rfl, rfl⟩
  | physRead a =>
    have hlt : a < 2 ^ 32 := of_decide_eq_true h
    exact congrArg (fun a => Except.ok (Instr.physRead a)) (bytes32_extractLsb' hlt)
  | physWrite a v =>
    have hlt : a < 2 ^ 32 := of_decide_eq_true h
    exact congrArg (fun a => Except.ok (Instr.physWrite a v)) (bytes32_extractLsb' hlt)
  | virtRead va quiet =>
    exact withBit_eq_ok_iff.2 ⟨quiet, rfl, congrArg (Instr.virtRead · quiet) (bytes16_extractLsb' va)⟩
  | virtWrite va v => exact congrArg (fun a => Except.ok (Instr.virtWrite a v)) (bytes16_extractLsb' va)
  | cpuMemRead va m1 =>
    exact withBit_eq_ok_iff.2 ⟨m1, rfl, congrArg (Instr.cpuMemRead · m1) (bytes16_extractLsb' va)⟩
  | cpuMemWrite va v => exact congrArg (fun a => Except.ok (Instr.cpuMemWrite a v)) (bytes16_extractLsb' va)
  | portRead addr => exact congrArg (fun a => Except.ok (Instr.portRead a)) (bytes16_extractLsb' addr)
  | portWrite addr v => exact congrArg (fun a => Except.ok (Instr.portWrite a v)) (bytes16_extractLsb' addr)
  | csRecalc | nonfetch | retiEvent | repoll | recalcReq | fetchObserve _ | rev8 _ | spiExchange _ => rfl
  | recalcSvc iff1 iff2 => exact (decodeEnables_eq_ok_iff (c := c)).2 ⟨iff1, iff2, rfl, rfl⟩
  | reset p =>
    exact decodeReset_eq_ok_iff.2 ⟨p, by simpa [WellFormed, Instr.wellFormed] using h, rfl, rfl⟩

/-! ## What the decoder reads -/

/-- `r` is the request of the operation `i`, well formed in the context `c`. -/
structure Presents (c : DecodeCtx) (i : Instr) (r : Request) : Prop where
  wellFormed : WellFormed c i
  encodes    : encode i = r

theorem ppiSub_cases : ∀ sub : BitVec 2, sub = 0 ∨ sub = 1 ∨ sub = 2 ∨ sub = 3 := by decide

/-- For a read and for a write at once: the two directions have the same ports. -/
theorem presents_decodePort8 (c : DecodeCtx) (p v : Byte) :
    Presents c (decodePort8Read c.ideConfigured p) ⟨.port8 .read, [p]⟩ ∧
    Presents c (decodePort8Write c.ideConfigured p v) ⟨.port8 .write, [p, v]⟩ := by
  have hp := portSelects_portDecode c.ideConfigured p
  unfold decodePort8Read decodePort8Write
  generalize portDecode c.ideConfigured p = t at hp
  cases t with
  | ide sub =>
    obtain ⟨hide, rfl⟩ := hp
    exact ⟨⟨hide, rfl⟩, ⟨hide, rfl⟩⟩
  | ppi sub =>
    dsimp only [PortSelects] at hp ⊢
    generalize p.extractLsb' 2 1 = x at hp ⊢
    obtain rfl := hp
    obtain rfl | rfl | rfl | rfl := ppiSub_cases sub <;> exact ⟨⟨rfl, rfl⟩, ⟨rfl, rfl⟩⟩
  | fdc _ | led | traceLo | traceHi =>
    obtain rfl := hp
    exact ⟨⟨rfl, rfl⟩, ⟨rfl, rfl⟩⟩
  | unmapped => exact ⟨⟨hp, rfl⟩, ⟨hp, rfl⟩⟩

theorem presents_decodePpicw (c : DecodeCtx) (v : Byte) : Presents c (decodePpicw v) ⟨.ppicw, [v]⟩ := by
  unfold decodePpicw
  split_ifs with hmode
  · exact ⟨hmode, rfl⟩
  · have hv := (bsrByte_eq_iff _ _ _ v).2 ⟨by simpa using hmode, rfl, rfl, rfl⟩
    exact ⟨rfl, congrArg (fun b => Request.mk .ppicw [b]) hv⟩

theorem presents_decodeFetch8 (c : DecodeCtx) (b : Byte) : Presents c (decodeFetch8 c.det b) ⟨.fetch8, [b]⟩ := by
  unfold decodeFetch8
  cases hdet : c.det with
  | idle =>
    dsimp only
    split_ifs with hdd hfd hcb hed
    · exact ⟨beq_iff_eq.2 hdet, by rw [hdd]; rfl⟩
    · exact ⟨beq_iff_eq.2 hdet, by rw [hfd]; rfl⟩
    · exact ⟨beq_iff_eq.2 hdet, by rw [hcb]; rfl⟩
    · exact ⟨beq_iff_eq.2 hdet, by rw [hed]; rfl⟩
    · exact ⟨wellFormed_otherIdle_iff.2 ⟨hdet, hdd, hfd, hcb, hed⟩, rfl⟩
  | sawPrefixED =>
    dsimp only
    split_ifs with hreti
    · exact ⟨beq_iff_eq.2 hdet, by rw [hreti]; rfl⟩
    · exact ⟨wellFormed_otherSawed_iff.2 ⟨hdet, hreti⟩, rfl⟩

/-- An EVENT row is read at its own number of operand bytes only. -/
theorem presents_of_decodeEvent {c : DecodeCtx} {e : EventName} {bytes : List Byte} {i : Instr}
    (h : decodeEvent c e bytes = .ok i) : Presents c i ⟨.event e, bytes⟩ := by
  cases e with
  | csRecalc | nonfetch | retiEvent | repoll | recalcReq =>
    match bytes, h with
    | [], h =>
      cases h
      exact ⟨rfl, rfl⟩
    | _ :: _, h => cases h
  | fetchObserve | rev8 | spiExchange =>
    match bytes, h with
    | [b], h =>
      cases h
      exact ⟨rfl, rfl⟩
    | [], h | _ :: _ :: _, h => cases h
  | recalcSvc =>
    match bytes, h with
    | [f], h =>
      obtain ⟨iff1, iff2, rfl, rfl⟩ := decodeEnables_eq_ok_iff.1 h
      exact ⟨rfl, rfl⟩
    | [], h | _ :: _ :: _, h => cases h
  | portRead =>
    match bytes, h with
    | [b0, b1], h =>
      cases h
      exact ⟨rfl, by simp [encode]⟩
    | [], h | [_], h | _ :: _ :: _ :: _, h => cases h
  | virtWrite | cpuMemWrite | portWrite =>
    match bytes, h with
    | [b0, b1, v], h =>
      cases h
      exact ⟨rfl, by simp [encode]⟩
    | [], h | [_], h | [_, _], h | _ :: _ :: _ :: _ :: _, h => cases h
  | virtRead | cpuMemRead =>
    match bytes, h with
    | [b0, b1, x], h =>
      obtain ⟨b, rfl, rfl⟩ := withBit_eq_ok_iff.1 h
      exact ⟨rfl, by simp [encode]⟩
    | [], h | [_], h | [_, _], h | _ :: _ :: _ :: _ :: _, h => cases h
  | physRead =>
    match bytes, h with
    | [b0, b1, b2, b3], h =>
      cases h
      obtain ⟨hlt, hbytes⟩ := (toBytes32_eq_iff _ b0 b1 b2 b3).2 rfl
      exact ⟨decide_eq_true hlt, by simp [encode, hbytes]⟩
    | [], h | [_], h | [_, _], h | [_, _, _], h | _ :: _ :: _ :: _ :: _ :: _, h => cases h
  | physWrite =>
    match bytes, h with
    | [b0, b1, b2, b3, v], h =>
      cases h
      obtain ⟨hlt, hbytes⟩ := (toBytes32_eq_iff _ b0 b1 b2 b3).2 rfl
      exact ⟨decide_eq_true hlt, by simp [encode, hbytes]⟩
    | [], h | [_], h | [_, _], h | [_, _, _], h | [_, _, _, _], h | _ :: _ :: _ :: _ :: _ :: _ :: _, h => cases h
  | reset =>
    obtain ⟨p, hstarted, rfl, rfl⟩ := decodeReset_eq_ok_iff.1 h
    exact ⟨by simp [WellFormed, Instr.wellFormed, hstarted], rfl⟩

/-- The cases are those of `decode` in its own order: each format and direction, then the wrong lengths. -/
theorem presents_of_decode {c : DecodeCtx} {r : Request} {i : Instr} (h : decode c r = .ok i) : Presents c i r := by
  obtain ⟨fmt, bytes⟩ := r
  unfold decode at h
  dsimp only at h
  split at h
  · next b0 b1 =>
    cases h
    exact ⟨rfl, congrArg (Request.mk (.port16 .read)) (toBytes16_bytes16 b0 b1)⟩
  · next b0 b1 v =>
    cases h
    exact ⟨rfl, congrArg (fun bs => Request.mk (.port16 .write) (bs ++ [v])) (toBytes16_bytes16 b0 b1)⟩
  · next p =>
    cases h
    exact (presents_decodePort8 c p 0).1
  · next p v =>
    cases h
    exact (presents_decodePort8 c p v).2
  · next v =>
    cases h
    exact presents_decodePpicw c v
  · next b =>
    cases h
    exact presents_decodeFetch8 c b
  · obtain ⟨half, off, hbytes, rfl⟩ := decodePa20_eq_ok_iff.1 h
    cases half <;> exact ⟨rfl, congrArg (Request.mk (.pa20 .read)) hbytes⟩
  · next v =>
    obtain ⟨half, off, hbytes, rfl⟩ := decodePa20_eq_ok_iff.1 h
    have happend := congrArg (· ++ [v]) hbytes
    cases half <;> exact ⟨rfl, congrArg (Request.mk (.pa20 .write)) happend⟩
  · exact presents_of_decodeEvent h
  · cases h

/-- The decoder reads an operation off its own request, where it is well formed, and off no other. -/
theorem decode_eq_ok_iff {c : DecodeCtx} {r : Request} {i : Instr} : decode c r = .ok i ↔ Presents c i r := by
  refine ⟨presents_of_decode, ?_⟩
  rintro ⟨hwf, rfl⟩
  exact decode_encode hwf

/-! ## The obligations -/

/-- Settles O5: an operation is presented by what the encoder writes. -/
theorem decodeOfEncodeIsTheOperation : Obligations.DecodeOfEncodeIsTheOperation :=
  fun _ _ hwf => decode_eq_ok_iff.2 ⟨hwf, rfl⟩

/-- Settles O6: what the decoder reads is presented by the request. -/
theorem encodeOfDecodeIsTheRequest : Obligations.EncodeOfDecodeIsTheRequest :=
  fun _ _ _ h => (decode_eq_ok_iff.1 h).encodes

/-- Settles O7: what the decoder reads is presented in its context. -/
theorem decodedOperationsAreWellFormed : Obligations.DecodedOperationsAreWellFormed :=
  fun _ _ _ h => (decode_eq_ok_iff.1 h).wellFormed

/-- Settles O8, by evaluating the decoder on each word. -/
theorem wordsOfTheTablesDecode : Obligations.WordsOfTheTablesDecode :=
  ⟨by decide, by decide, by decide, by decide, by decide, by decide, by decide, by decide⟩

end Sys2Proof
end

