-- ==== Sys2Proof/Proofs/BusMemory.lean ====
section
/-! PROOFS. The memory operations one by one (40_bus_memory.md): the byte each returns or stores, and its frame. -/

namespace Sys2Proof.Machine

/-! ## Physical reads and writes -/

/-- The base half's read (R131): the offset is its own array index (D18). -/
theorem baseRead_baseAddr (s : State) (off : BitVec 19) :
    baseRead s (baseAddr off) = if s.portA.getLsbD 3 then s.romAt off.toNat else s.ramAt off.toNat := by
  rw [baseRead, baseAddr_toNat]
  rfl

/-- The extended half's read (R132): the array index is the whole address (D18). -/
theorem extRead_extAddr (s : State) (off : BitVec 19) :
    extRead s (extAddr off) = if s.portA.getLsbD 2 then s.ramAt (2 ^ 19 + off.toNat) else 0xFF := by
  rw [extRead, extAddr_toNat]
  rfl

/-- A physical read looks at port A, ROM, and the byte of RAM at its own masked address. -/
theorem physByte_congr {s t : State} {a : Nat} (hport : t.portA = s.portA) (hrom : t.rom = s.rom)
    (hbyte : t.ramAt (a % 2 ^ 20) = s.ramAt (a % 2 ^ 20)) : physByte t a = physByte s a := by
  rw [physByte_eq, physByte_eq, hport, hbyte, romAt_congr s t hrom]

/-- The base half reports the write it discards, and no other (R134). -/
theorem baseWrite_diags (a : PhysAddr) (v : Byte) (s : State) :
    (baseWrite a v s).diags = if s.romEnabled then .romWrite a v :: s.diags else s.diags := by
  rw [baseWrite, apply_ite State.diags]
  rfl

/-- The extended half reports the write it discards, and no other (R135; log entry 16). -/
theorem extWrite_diags (a : PhysAddr) (v : Byte) (s : State) :
    (extWrite a v s).diags = if s.extEnabled then s.diags else .extWriteDisabled a v :: s.diags := by
  rw [extWrite, apply_ite State.diags]
  rfl

/-- The frame of a memory write that changed RAM and the diagnostics at most, and then cleared the bus. `stored` is
what the write's own law says of the RAM it leaves. -/
theorem noRet_frame {s t : State} {stored : Memory → Prop}
    (h : ∃ m d, t = { s with ram := m, diags := d } ∧ stored m) :
    t.noRet = { s with ram := t.noRet.ram, diags := t.noRet.diags, ret := none } := by
  obtain ⟨m, d, rfl, -⟩ := h
  rfl

theorem physWrite_portA (a : Nat) (v : Byte) (s : State) : (physWrite a v s).portA = s.portA := by
  obtain ⟨m, d, h, -⟩ := physWrite_eq a v s
  rw [h]

theorem physWrite_rom (a : Nat) (v : Byte) (s : State) : (physWrite a v s).rom = s.rom := by
  obtain ⟨m, d, h, -⟩ := physWrite_eq a v s
  rw [h]

/-- Reading the address just written (R141(a) to (c)): the bank bits that keep a byte out of RAM also hide RAM from
the read. -/
theorem physByte_physWrite_same (a : Nat) (v : Byte) (s : State) :
    physByte (physWrite a v s) a =
      if a.testBit 19 then (if s.portA.getLsbD 2 then v else 0xFF)
      else (if s.portA.getLsbD 3 then s.romAt (a % 2 ^ 20) else v) := by
  have hbits : s.storesTo a = if a.testBit 19 then s.portA.getLsbD 2 else !s.portA.getLsbD 3 := rfl
  rw [physByte_eq, physWrite_portA, physWrite_ramAt, romAt_congr s _ (physWrite_rom a v s), hbits]
  cases a.testBit 19 with
  | true => cases s.portA.getLsbD 2 <;> simp
  | false => cases s.portA.getLsbD 3 <;> simp

/-- Reading an address that was not written. -/
theorem physByte_physWrite_other {a b : Nat} (hab : b % 2 ^ 20 ≠ a % 2 ^ 20) (v : Byte) (s : State) :
    physByte (physWrite a v s) b = physByte s b := by
  have hbyte : (physWrite a v s).ramAt (b % 2 ^ 20) = s.ramAt (b % 2 ^ 20) := by
    rw [physWrite_ramAt, if_neg fun h => hab h.1]
  exact physByte_congr (physWrite_portA a v s) (physWrite_rom a v s) hbyte

/-! ## The detector's step -/

/-- All that the detector's step on a byte does (R230, R236): it moves the detector, and on 0x4D in `SawPrefixED` the
RETI event clears the live flag and polls (R238, R239). -/
theorem fetchObserve_eq (b : Byte) (s : State) :
    ∃ live hist ans d,
      fetchObserve b s = { s with
        det := if s.det = .idle ∧ b = 0xED then .sawPrefixED else .idle
        liveIrq := live, history := hist, answers := ans, diags := d } ∧
      if s.det = .sawPrefixED ∧ b = 0x4D then
        live = s.pollAnswer ∧ hist = .poll :: s.history ∧ ans = s.answers.afterCall .poll
      else live = s.liveIrq ∧ hist = s.history ∧ ans = s.answers := by
  rw [← detNext_eq]
  by_cases hfire : s.det = .sawPrefixED ∧ b = 0x4D
  · obtain ⟨d, hreti⟩ := retiEvent_eq (s.setDet (detNext s.det b))
    simp only [if_pos hfire]
    rw [fetchObserve_fires b s ((detFires_iff _ _).2 hfire), hreti]
    exact ⟨_, _, _, d, rfl, liveAfterPoll_eq false s.pollAnswer, rfl, rfl⟩
  · have hquiet : detFires s.det b = false := Bool.eq_false_iff.2 (mt (detFires_iff _ _).1 hfire)
    simp only [if_neg hfire]
    rw [fetchObserve_quiet b s hquiet]
    exact ⟨_, _, _, _, rfl, rfl, rfl, rfl⟩

/-- A non-fetch read moves the detector as the policy says, and does nothing else (R237, D12). -/
theorem nonFetchObserve_eq_setDet (s : State) :
    nonFetchObserve s = s.setDet (if s.params.detOnNonfetch = .idle then .idle else s.det) := by
  unfold nonFetchObserve
  cases s.params.detOnNonfetch <;> rfl

/-! ## The obligations -/

/-- Settles O18: each half's read at the array index of its offset. -/
theorem halfReadsFollowTheirEnableBit : Obligations.HalfReadsFollowTheirEnableBit := by
  intro off s
  rw [← baseRead_baseAddr, ← extRead_extAddr]
  exact ⟨rfl, rfl⟩

/-- Settles O19: each half's store, its report and its frame. -/
theorem halfWritesStoreOrDiscard : Obligations.HalfWritesStoreOrDiscard := by
  intro off v s
  constructor
  · refine ⟨_, rfl, noRet_frame (baseWrite_eq (baseAddr off) v s), fun x => ?_, baseWrite_diags (baseAddr off) v s⟩
    rw [← baseAddr_toNat]
    exact baseWrite_ramAt (baseAddr off) v s x
  · refine ⟨_, rfl, noRet_frame (extWrite_eq (extAddr off) v s), fun x => ?_, extWrite_diags (extAddr off) v s⟩
    rw [← extAddr_toNat]
    exact extWrite_ramAt (extAddr off) v s x

/-- Settles O20: the bank decoder's read, put on the bus. -/
theorem physReadMasksAndDecodes : Obligations.PhysReadMasksAndDecodes := by
  intro a s
  rw [← physByte_eq]
  rfl

/-- Settles O21: the bank decoder's write and its frame. -/
theorem physWriteStoresOneByteOrNone : Obligations.PhysWriteStoresOneByteOrNone :=
  fun a v s => ⟨_, rfl, noRet_frame (physWrite_eq a v s), physWrite_ramAt a v s⟩

/-- Settles O22: the byte read back at the address written, and at any other. -/
theorem readBackAfterAWrite : Obligations.ReadBackAfterAWrite := by
  intro a v s
  refine ⟨_, _, rfl, rfl, congrArg some (physByte_physWrite_same a v s), fun b hb => ⟨_, _, rfl, rfl, ?_⟩⟩
  exact congrArg some (physByte_physWrite_other hb v s)

/-- Settles O23: the translator's answer is masked before the decoder masks it again, and only the traced read can
report. -/
theorem virtReadReturnsTheTranslatedByte : Obligations.VirtReadReturnsTheTranslatedByte := by
  intro va quiet s
  obtain ⟨d, hread⟩ := virtRead_eq va quiet s
  refine ⟨virtByte s va, d, ?_, congrArg Host.Outcome.next hread, ?_⟩
  · rw [virtByte_eq]
    rfl
  · rintro rfl
    calc d
      _ = (virtRead va true s).diags := by rw [hread]
      _ = s.diags := rfl

/-- Settles O24: both operations are the virtual write. -/
theorem virtAndCpuWritesStoreAtTheTranslation : Obligations.VirtAndCpuWritesStoreAtTheTranslation := by
  intro va v s i hi
  have hexec : exec i s = .next (virtWrite va v s).noRet := by
    obtain rfl | rfl := hi <;> rfl
  refine ⟨_, hexec, ?_, virtWrite_ramAt va v s⟩
  obtain ⟨m, d, hwrite, -⟩ := virtWrite_eq va v s
  rw [hwrite]
  rfl

/-- Settles O26: the translation is asked for first, then the detector steps on the byte returned. -/
theorem cpuFetchStepsTheDetector : Obligations.CpuFetchStepsTheDetector := by
  intro va s
  refine ⟨fetchObserve (virtByte s va) (virtRead va false s), rfl, ?_⟩
  obtain ⟨d, hread⟩ := virtRead_eq va false s
  rw [hread]
  obtain ⟨live, hist, ans, d', hstep, hpoll⟩ := fetchObserve_eq (virtByte s va) _
  rw [hstep]
  exact ⟨rfl, rfl, hpoll, rfl⟩

/-- Settles O27: the read's byte and its translation, then the policy's move of the detector. -/
theorem cpuDataReadNeverFires : Obligations.CpuDataReadNeverFires := by
  intro va s
  constructor
  · obtain ⟨d, hread⟩ := virtRead_eq va false s
    refine ⟨d, congrArg Host.Outcome.next ?_⟩
    calc cpuMemRead va false s
      _ = nonFetchObserve (virtRead va false s) := rfl
      _ = _ := by rw [hread, nonFetchObserve_eq_setDet]; rfl
  · exact congrArg (fun t => Host.Outcome.next (State.noRet t)) (nonFetchObserve_eq_setDet s)

end Sys2Proof.Machine
end

/-! PROOFS. The port operations one by one (41_io_port_decoder.md): each row of the port map, and an unclaimed operation
as the row of its low byte. -/

namespace Sys2Proof.Machine

/-! ## The rows of the port map -/

/-- The row that the decoder reads off a port byte is the read of what the byte selects (R93, R150). -/
theorem exec_decodePort8Read (ide : Bool) (p : Byte) (s : State) :
    exec (decodePort8Read ide p) s = .next (targetRead (portDecode ide p) p s) := by
  unfold decodePort8Read
  cases portDecode ide p with
  | ppi sub => obtain rfl | rfl | rfl | rfl := ppiSub_cases sub <;> rfl
  | ide _ | fdc _ | led | traceLo | traceHi | unmapped => rfl

/-- The row that the decoder reads off a port byte is the write of what the byte selects (R93, R151). -/
theorem exec_decodePort8Write (ide : Bool) (p v : Byte) (s : State) :
    exec (decodePort8Write ide p v) s = .next (targetWrite (portDecode ide p) p v s).noRet := by
  unfold decodePort8Write
  cases portDecode ide p with
  | ppi sub => obtain rfl | rfl | rfl | rfl := ppiSub_cases sub <;> rfl
  | ide _ | fdc _ | led | traceLo | traceHi | unmapped => rfl

/-- The call of R154, with the request that the controller may make inside it (R240; log entry 5). -/
theorem claimedWrite_eq (addr : PortAddr) (v : Byte) (s : State) :
    claimedWrite addr v s = { s with
      history := .ctlWrite addr v :: s.history, recalc := s.recalc || s.ctlWriteRequests addr v
      answers := s.answers.afterCall (.ctlWrite addr v) } :=
  recalcRequestIf_eq _ _

/-- The call of R160, with the request that the floppy controller may make inside it (R240; log entry 5). -/
theorem fdcWrite_eq (sub : BitVec 3) (v : Byte) (s : State) :
    fdcWrite sub v s = { s with
      history := .fdcWrite sub v :: s.history, recalc := s.recalc || s.fdcWriteRequests sub v
      answers := s.answers.afterCall (.fdcWrite sub v) } :=
  recalcRequestIf_eq _ _

/-! ## Unclaimed port operations -/

/-- After the claim check, the row of the low byte: the high byte is discarded (R150, R155). -/
theorem exec_portRead_of_unclaimed {addr : PortAddr} {s : State} (h : s.claimsAnswer addr = false) :
    exec (.portRead addr) s =
      exec (decodePort8Read s.params.ideConfigured (maskPort addr)) (claimCheck .read addr s) := by
  rw [exec_decodePort8Read, ← portRead_unclaimed addr s h]
  rfl

/-- After the claim check, the row of the low byte: the high byte is discarded (R151, R155). -/
theorem exec_portWrite_of_unclaimed {addr : PortAddr} {s : State} (v : Byte) (h : s.claimsAnswer addr = false) :
    exec (.portWrite addr v) s =
      exec (decodePort8Write s.params.ideConfigured (maskPort addr) v) (claimCheck .write addr s) := by
  rw [exec_decodePort8Write, ← portWrite_unclaimed addr v s h]
  rfl

theorem exec_portRead_of_unmapped {addr : PortAddr} {s : State} (h : s.claimsAnswer addr = false)
    (hmap : portDecode s.params.ideConfigured (maskPort addr) = .unmapped) :
    exec (.portRead addr) s = exec (.inUnmapped (maskPort addr)) (claimCheck .read addr s) := by
  rw [exec_portRead_of_unclaimed h, decodePort8Read, hmap]

theorem exec_portWrite_of_unmapped {addr : PortAddr} {s : State} (v : Byte) (h : s.claimsAnswer addr = false)
    (hmap : portDecode s.params.ideConfigured (maskPort addr) = .unmapped) :
    exec (.portWrite addr v) s = exec (.outUnmapped (maskPort addr) v) (claimCheck .write addr s) := by
  rw [exec_portWrite_of_unclaimed v h, decodePort8Write, hmap]

/-! ## What is no field of `S` -/

/-- The data bus, the calls with their answers, and the diagnostics are no fields of the spec's record. -/
theorem sameBlock_of_busAndCalls (s : State) (r : Option Byte) (h : List ExtCall) (a : Answers) (d : List Diag) :
    SameBlock s { s with ret := r, history := h, answers := a, diags := d } := by
  constructor <;> rfl

/-- They are no fields of the run either. -/
theorem sameRun_of_busAndCalls (s : State) (r : Option Byte) (h : List ExtCall) (a : Answers) (d : List Diag) :
    SameRun s { s with ret := r, history := h, answers := a, diags := d } := by
  constructor <;> rfl

/-! ## The obligations -/

/-- Settles O54: the two rows, and the port operations as these rows after the claim check. -/
theorem unmappedPortsReadOpenBusAndIgnoreWrites : Obligations.UnmappedPortsReadOpenBusAndIgnoreWrites := by
  refine ⟨fun p v s => ⟨_, _, rfl, rfl⟩, fun addr v s hclaim hmap => ?_⟩
  have hread := exec_portRead_of_unmapped hclaim hmap
  have hwrite := exec_portWrite_of_unmapped v hclaim hmap
  exact ⟨_, _, hread, rfl, sameBlock_of_busAndCalls s _ _ _ _, sameRun_of_busAndCalls s _ _ _ _,
    hwrite, rfl, sameBlock_of_busAndCalls s _ _ _ _, sameRun_of_busAndCalls s _ _ _ _, rfl, rfl⟩

/-- Settles O55: the decoder reads the row off the low byte alone. -/
theorem unclaimedPortOperationsAreTheirRows : Obligations.UnclaimedPortOperationsAreTheirRows :=
  fun _ v _ hclaim => ⟨_, _, _, _, rfl, rfl, exec_portRead_of_unclaimed hclaim, exec_portWrite_of_unclaimed v hclaim⟩

/-- Settles O49: the controller's read after the claim check; every port read has the frame. -/
theorem claimedPortReadIsDelegatedWhole : Obligations.ClaimedPortReadIsDelegatedWhole := by
  intro addr s hclaim
  have hread := portRead_claimed addr s hclaim
  have hbus := portRead_putsByte addr s
  exact ⟨portRead addr s, rfl, congrArg State.ret hread, congrArg State.history hread, hbus.sameBlock, hbus.sameRun⟩

/-- Settles O50: one call each way. -/
theorem claimedRowsOnlyCallTheController : Obligations.ClaimedRowsOnlyCallTheController :=
  fun addr v s => ⟨rfl, congrArg (fun t => Host.Outcome.next (State.noRet t)) (claimedWrite_eq addr v s)⟩

/-- Settles O51: one call each way; only the floppy controller's write can ask for a recalculation. -/
theorem deviceRowsOnlyCallTheDevice : Obligations.DeviceRowsOnlyCallTheDevice :=
  fun sub v s => ⟨rfl, rfl, rfl, congrArg (fun t => Host.Outcome.next (State.noRet t)) (fdcWrite_eq sub v s)⟩

/-- Settles O52: each of these rows is a single field update. -/
theorem outputOnlyPorts : Obligations.OutputOnlyPorts :=
  fun _ _ => ⟨rfl, rfl, rfl, rfl⟩

/-- Settles O53: each port byte is its row's encoding, and the level after the write is the byte written beside the byte
kept. -/
theorem tracePortWritesReplaceOneByte : Obligations.TracePortWritesReplaceOneByte :=
  fun v _ => ⟨decode_encode (i := .outTraceLo v) rfl, decode_encode (i := .outTraceHi v) rfl,
    ⟨_, rfl, BitVec.extractLsb'_append_eq_right, BitVec.extractLsb'_append_eq_left⟩,
    ⟨_, rfl, BitVec.extractLsb'_append_eq_left, BitVec.extractLsb'_append_eq_right⟩⟩

end Sys2Proof.Machine

/-! PROOFS. The parallel interface (42_ppi.md): the value that each read returns, each write as a store followed by the
chip-select recalculation, and over every operation the events of the select's changes. -/

namespace Sys2Proof.Machine

/-! ## Reads -/

/-- A nibble of port C as it is read: all ones where its direction bit makes it an input (R192). -/
theorem getLsbD_readNibble {k : Nat} (hk : k < 4) (input : Bool) (latch : BitVec 4) :
    (if input then 0xF#4 else latch).getLsbD k = (input || latch.getLsbD k) := by
  cases input with
  | false => rfl
  | true =>
    calc (0xF#4).getLsbD k
      _ = (BitVec.allOnes 4).getLsbD k := rfl
      _ = true := by rw [BitVec.getLsbD_allOnes, decide_eq_true hk]

/-- Port C as it is read, bit by bit: each nibble by its own direction bit (R192). -/
theorem portCRead_getLsbD {k : Nat} (hk : k < 8) (s : State) :
    s.portCRead.getLsbD k = ((if k < 4 then s.ctrl.getLsbD 0 else s.ctrl.getLsbD 3) || s.portC.getLsbD k) := by
  unfold State.portCRead
  rw [BitVec.getLsbD_append]
  by_cases hlow : k < 4
  · rw [if_pos hlow, if_pos hlow, getLsbD_readNibble hlow, BitVec.getLsbD_extractLsb', decide_eq_true hlow,
      Nat.zero_add, Bool.true_and]
    rfl
  · have hhigh : k - 4 < 4 := by omega
    have hback : 4 + (k - 4) = k := by omega
    rw [if_neg hlow, if_neg hlow, getLsbD_readNibble hhigh, BitVec.getLsbD_extractLsb', decide_eq_true hhigh, hback,
      Bool.true_and]
    rfl

/-! ## The recalculation -/

/-- The events of a change as R202's pseudocode tests for them. -/
theorem afterSelect_eq (old new : BitVec 3) (h : List ExtCall) :
    afterSelect old new h =
      if new = old then h
      else if new = 0 then .csLower :: h
      else if old = 0 then .csRaise :: h
      else h := by
  unfold afterSelect
  by_cases hold : old = 0#3
  · subst hold
    by_cases hnew : new = 0#3 <;> simp [hnew]
  · by_cases hnew : new = 0#3
    · subst hnew
      simp [hold, Ne.symm hold]
    · simp [hold, hnew]

/-- The recalculation stores the select in the cache, and sends the event of the change (R202). -/
theorem csRecalc_eq_afterSelect (s : State) :
    csRecalc s = { s with
      cs := selectOf s.portC, history := afterSelect s.cs (selectOf s.portC) s.history } := by
  rw [csRecalc_eq, afterSelect_eq]

theorem csRecalc_ctrl (s : State) : (csRecalc s).ctrl = s.ctrl := by rw [csRecalc_eq]

/-- A store that leaves the select in the cache makes the recalculation silent (R31, R203). -/
theorem next_csRecalc_of_cached {u : State} (h : u.cs = selectOf u.portC) :
    (.next (csRecalc u).noRet : Result) = .next u.noRet :=
  congrArg (fun t => Host.Outcome.next (State.noRet t)) (csRecalc_same u h)

/-! ## The control byte -/

theorem controlWrite_of_mode {v : Byte} (h : v.getLsbD 7 = true) (s : State) : controlWrite v s = s.setCtrl v :=
  if_pos h

theorem controlWrite_of_bit {v : Byte} (h : v.getLsbD 7 = false) (s : State) : controlWrite v s = bitSetReset v s :=
  if_neg (Bool.eq_false_iff.1 h)

/-- The bit set/reset command of the byte `0 ign n b`: bits 6:4 are ignored (R200). -/
theorem bitSetReset_bsrByte (ign n : BitVec 3) (b : Bool) (s : State) :
    bitSetReset ((0b0#1) ++ ign ++ n ++ BitVec.ofBool b) s = s.setPortC (setBit s.portC n.toNat b) := by
  obtain ⟨-, -, hindex, hvalue⟩ := (bsrByte_eq_iff ign n b _).1 rfl
  rw [bitSetReset, hindex, hvalue]

/-- The row BSR: one bit of port C is written, then the select is recalculated (R200, R202; log entry 12). -/
theorem exec_bsr (ign n : BitVec 3) (b : Bool) (s : State) :
    exec (.bsr ign n b) s = .next (csRecalc (s.setPortC (setBit s.portC n.toNat b))).noRet :=
  congrArg (fun t => Host.Outcome.next (State.noRet (csRecalc t))) (bitSetReset_bsrByte ign n b s)

/-! ## The events of the select -/

/-- The two events that a recalculation can send. -/
def isSelectEvent : ExtCall → Bool
  | .csLower => true
  | .csRaise => true
  | _ => false

/-- The chip-select events of a history, newest first. -/
def selectEvents (h : List ExtCall) : List ExtCall := h.filter isSelectEvent

/-- From `s` to `t` the cache stands and no chip-select event is sent. -/
structure SelectQuiet (s t : State) : Prop where
  cs     : t.cs = s.cs
  events : selectEvents t.history = selectEvents s.history

/-- From `s` to `t` the chip-select events sent are those of the cache's change, one at most (R202). -/
def SendsSelectChange (s t : State) : Prop :=
  selectEvents t.history = afterSelect s.cs t.cs (selectEvents s.history)

theorem afterSelect_self (c : BitVec 3) (h : List ExtCall) : afterSelect c c h = h := by
  rw [afterSelect_eq, if_pos rfl]

theorem selectEvents_afterSelect (old new : BitVec 3) (h : List ExtCall) :
    selectEvents (afterSelect old new h) = afterSelect old new (selectEvents h) := by
  unfold afterSelect
  repeat' split
  all_goals rfl

theorem count_csLower_afterSelect (old new : BitVec 3) (h : List ExtCall) :
    (afterSelect old new h).count .csLower = h.count .csLower + (if old ≠ 0 ∧ new = 0 then 1 else 0) := by
  unfold afterSelect
  by_cases hold : old = 0#3 <;> by_cases hnew : new = 0#3 <;> simp [hold, hnew]

theorem count_csRaise_afterSelect (old new : BitVec 3) (h : List ExtCall) :
    (afterSelect old new h).count .csRaise = h.count .csRaise + (if old = 0 ∧ new ≠ 0 then 1 else 0) := by
  unfold afterSelect
  by_cases hold : old = 0#3 <;> by_cases hnew : new = 0#3 <;> simp [hold, hnew]

theorem count_selectEvents {c : ExtCall} (hc : isSelectEvent c = true) (h : List ExtCall) :
    (selectEvents h).count c = h.count c := List.count_filter hc

theorem SelectQuiet.trans {s t u : State} (h : SelectQuiet s t) (k : SelectQuiet t u) : SelectQuiet s u :=
  ⟨k.cs.trans h.cs, k.events.trans h.events⟩

theorem SelectQuiet.noRet {s t : State} (h : SelectQuiet s t) : SelectQuiet s t.noRet := ⟨h.cs, h.events⟩

theorem SelectQuiet.sends {s t : State} (h : SelectQuiet s t) : SendsSelectChange s t := by
  rw [SendsSelectChange, h.cs, h.events, afterSelect_self]

theorem SendsSelectChange.after_quiet {s t u : State} (h : SelectQuiet s t) (k : SendsSelectChange t u) :
    SendsSelectChange s u := by
  rw [SendsSelectChange, ← h.cs, ← h.events]
  exact k

theorem SendsSelectChange.noRet {s t : State} (h : SendsSelectChange s t) : SendsSelectChange s t.noRet := h

/-! ## The shared operations, by the select's events -/

theorem fetchObserve_selectQuiet (b : Byte) (s : State) : SelectQuiet s (fetchObserve b s) := by
  cases h : detFires s.det b
  · rw [fetchObserve_quiet b s h]
    exact ⟨rfl, rfl⟩
  · rw [fetchObserve_fires b s h]
    exact ⟨rfl, rfl⟩

theorem nonFetchObserve_selectQuiet (s : State) : SelectQuiet s (nonFetchObserve s) := by
  rw [nonFetchObserve_eq_setDet]
  exact ⟨rfl, rfl⟩

theorem recalcService_selectQuiet (iff1 iff2 : Bool) (s : State) : SelectQuiet s (recalcService iff1 iff2 s) := by
  obtain ⟨-, h⟩ | ⟨-, -, h⟩ | ⟨-, -, h⟩ := recalcService_cases iff1 iff2 s <;> rw [h] <;> exact ⟨rfl, rfl⟩

theorem virtRead_selectQuiet (va : VirtAddr) (quiet : Bool) (s : State) : SelectQuiet s (virtRead va quiet s) := by
  obtain ⟨d, h⟩ := virtRead_eq va quiet s
  rw [h]
  exact ⟨rfl, rfl⟩

theorem cpuMemRead_selectQuiet (va : VirtAddr) (m1 : Bool) (s : State) : SelectQuiet s (cpuMemRead va m1 s) := by
  cases m1
  · exact (virtRead_selectQuiet va false s).trans (nonFetchObserve_selectQuiet _)
  · exact (virtRead_selectQuiet va false s).trans (fetchObserve_selectQuiet _ _)

/-- A memory write changes RAM and the diagnostics at most. `stored` is what the write's own law says of the RAM it
leaves. -/
theorem SelectQuiet.of_memoryWrite {s t : State} {stored : Memory → Prop}
    (h : ∃ m d, t = { s with ram := m, diags := d } ∧ stored m) : SelectQuiet s t := by
  obtain ⟨m, d, rfl, -⟩ := h
  exact ⟨rfl, rfl⟩

theorem virtWrite_selectQuiet (va : VirtAddr) (v : Byte) (s : State) : SelectQuiet s (virtWrite va v s) := by
  obtain ⟨m, d, h, -⟩ := virtWrite_eq va v s
  rw [h]
  exact ⟨rfl, rfl⟩

theorem spiExchange_selectQuiet (b : Byte) (s : State) : SelectQuiet s (spiExchange b s) := by
  unfold spiExchange
  split <;> exact ⟨rfl, rfl⟩

theorem claimCheck_selectQuiet (d : Dir) (addr : PortAddr) (s : State) : SelectQuiet s (claimCheck d addr s) :=
  ⟨rfl, rfl⟩

theorem claimedRead_selectQuiet (addr : PortAddr) (s : State) : SelectQuiet s (claimedRead addr s) := ⟨rfl, rfl⟩

theorem claimedWrite_selectQuiet (addr : PortAddr) (v : Byte) (s : State) : SelectQuiet s (claimedWrite addr v s) :=
  ⟨rfl, rfl⟩

theorem targetRead_selectQuiet (t : PortTarget) (p : Byte) (s : State) : SelectQuiet s (targetRead t p s) := by
  cases t with
  | ppi sub => obtain rfl | rfl | rfl | rfl := ppiSub_cases sub <;> exact ⟨rfl, rfl⟩
  | ide _ | fdc _ | led | traceLo | traceHi | unmapped => exact ⟨rfl, rfl⟩

theorem portRead_selectQuiet (addr : PortAddr) (s : State) : SelectQuiet s (portRead addr s) := by
  cases h : s.claimsAnswer addr
  · rw [portRead_unclaimed addr s h]
    exact (claimCheck_selectQuiet _ _ s).trans (targetRead_selectQuiet _ _ _)
  · rw [portRead_claimed addr s h]
    exact (claimCheck_selectQuiet _ _ s).trans (claimedRead_selectQuiet _ _)

/-- A recalculation sends the change, whatever a store has just put in port C (R202). -/
theorem csRecalc_sends {s u : State} (hcs : u.cs = s.cs) (hhist : u.history = s.history) :
    SendsSelectChange s (csRecalc u) := by
  rw [csRecalc_eq_afterSelect, SendsSelectChange, ← hcs, ← hhist]
  exact selectEvents_afterSelect _ _ _

theorem ppiWrite_sends (sub : BitVec 2) (v : Byte) (s : State) : SendsSelectChange s (ppiWrite sub.toNat v s) := by
  obtain ⟨-, h⟩ | ⟨-, h⟩ | ⟨-, h⟩ | ⟨-, -, h⟩ | ⟨-, -, h⟩ := ppiWrite_cases sub v s <;> rw [h] <;>
    exact csRecalc_sends rfl rfl

theorem targetWrite_sends (t : PortTarget) (p v : Byte) (s : State) : SendsSelectChange s (targetWrite t p v s) := by
  cases t with
  | ppi sub => exact ppiWrite_sends sub v s
  | ide _ | fdc _ | led | traceLo | traceHi | unmapped => exact SelectQuiet.sends ⟨rfl, rfl⟩

theorem portWrite_sends (addr : PortAddr) (v : Byte) (s : State) : SendsSelectChange s (portWrite addr v s) := by
  cases h : s.claimsAnswer addr
  · rw [portWrite_unclaimed addr v s h]
    exact .after_quiet (claimCheck_selectQuiet _ _ s) (targetWrite_sends _ _ _ _)
  · rw [portWrite_claimed addr v s h]
    exact ((claimCheck_selectQuiet _ _ s).trans (claimedWrite_selectQuiet _ _ _)).sends

/-- Every operation but RESET. Those that recalculate are named first; the last arm holds the plain updates, and the
single calls that are neither event. -/
theorem exec_sends {i : Instr} {s t : State} (h : exec i s = .next t) (hr : ∀ p, i ≠ .reset p) :
    SendsSelectChange s t := by
  cases i with
  | reset p => exact absurd rfl (hr p)
  | outPpiA x v => cases h; exact (ppiWrite_sends 0 v s).noRet
  | outPpiB x v => cases h; exact (ppiWrite_sends 1 v s).noRet
  | outPpiC x v => cases h; exact (ppiWrite_sends 2 v s).noRet
  | outPpiCtrl x v => cases h; exact (ppiWrite_sends 3 v s).noRet
  | modeset v | bsr ign n b | csRecalc => cases h; exact (csRecalc_sends rfl rfl).noRet
  | portWrite addr v => cases h; exact (portWrite_sends addr v s).noRet
  | portRead addr => cases h; exact (portRead_selectQuiet addr s).sends
  | memwBase off v => cases h; exact (SelectQuiet.of_memoryWrite (baseWrite_eq _ v s)).noRet.sends
  | memwExt off v => cases h; exact (SelectQuiet.of_memoryWrite (extWrite_eq _ v s)).noRet.sends
  | physWrite a v => cases h; exact (SelectQuiet.of_memoryWrite (physWrite_eq a v s)).noRet.sends
  | virtWrite va v | cpuMemWrite va v => cases h; exact (virtWrite_selectQuiet va v s).noRet.sends
  | virtRead va quiet => cases h; exact (virtRead_selectQuiet va quiet s).sends
  | cpuMemRead va m1 => cases h; exact (cpuMemRead_selectQuiet va m1 s).sends
  | pfxDd | pfxFd | pfxCb | pfxEd | opcReti | otherIdle b | otherSawed b | fetchObserve b =>
    cases h; exact (fetchObserve_selectQuiet _ s).noRet.sends
  | nonfetch => cases h; exact (nonFetchObserve_selectQuiet s).noRet.sends
  | recalcSvc iff1 iff2 => cases h; exact (recalcService_selectQuiet iff1 iff2 s).noRet.sends
  | spiExchange b => cases h; exact (spiExchange_selectQuiet b s).sends
  | _ => cases h; exact SelectQuiet.sends ⟨rfl, rfl⟩

/-! ## The obligations -/

/-- Settles O41: the byte read, by its bits. -/
theorem portCReadComposesNibbles : Obligations.PortCReadComposesNibbles :=
  fun _ s => ⟨s.portCRead, rfl, fun _ hk => portCRead_getLsbD hk s⟩

/-- Settles O43: a store in port A or B leaves the select, so its recalculation is silent. -/
theorem portAAndBWritesStore : Obligations.PortAAndBWritesStore :=
  fun _ v s h => ⟨next_csRecalc_of_cached (u := s.setPortA v) h, next_csRecalc_of_cached (u := s.setPortB v) h⟩

/-- Settles O44: the recalculation after the store, and on its own. -/
theorem portCWriteStoresAndSelects : Obligations.PortCWriteStoresAndSelects :=
  fun _ v s =>
    ⟨congrArg (fun t => Host.Outcome.next (State.noRet t)) (csRecalc_eq_afterSelect (s.setPortC v)),
      congrArg (fun t => Host.Outcome.next (State.noRet t)) (csRecalc_eq_afterSelect s)⟩

/-- Settles O46: the byte of BSR has bit 7 clear, and its index and value are the operands. -/
theorem bitSetResetWritesOneBit : Obligations.BitSetResetWritesOneBit := by
  intro x ign n b s
  obtain ⟨hbit, -, -, -⟩ := (bsrByte_eq_iff ign n b _).1 rfl
  refine ⟨congrArg (fun t => Host.Outcome.next (State.noRet (csRecalc t))) (controlWrite_of_bit hbit s),
    _, exec_bsr ign n b s, fun k hk => ?_, ?_⟩ <;> rw [csRecalc_eq_afterSelect]
  · exact setBit_getLsbD s.portC n.toNat k b hk
  · rfl

/-- Settles O47: the events sent are those of the cache's change, and that adds one of the kind that fits. The change is
the cache's own, so the proof does not need that the cache held the select. -/
theorem chipSelectEventsCountTransitions : Obligations.ChipSelectEventsCountTransitions := by
  intro i s t _ h hr
  have hsends : selectEvents t.history = afterSelect s.cs t.cs (selectEvents s.history) := exec_sends h hr
  constructor
  · rw [← count_selectEvents rfl t.history, ← count_selectEvents rfl s.history, hsends, count_csLower_afterSelect]
  · rw [← count_selectEvents rfl t.history, ← count_selectEvents rfl s.history, hsends, count_csRaise_afterSelect]

/-- Settles O40: each read puts the port's value on the bus, chosen by its direction bit. -/
theorem portAAndBReadsFollowDirection : Obligations.PortAAndBReadsFollowDirection :=
  fun _ _ => ⟨rfl, rfl⟩

/-- Settles O42: a bit set/reset command stores in port C alone, and neither it nor the recalculation touches the control
register. -/
theorem controlReadReturnsTheWholeRegister : Obligations.ControlReadReturnsTheWholeRegister := by
  refine fun x s => ⟨rfl, fun v hv => ⟨_, rfl, ?_⟩⟩
  have hctrl : (csRecalc (controlWrite v s)).noRet.ctrl = s.ctrl := by
    rw [noRet_ctrl, csRecalc_ctrl, controlWrite_of_bit hv]
    rfl
  exact congrArg (fun c => Host.Outcome.next { (csRecalc (controlWrite v s)).noRet with ret := some c }) hctrl

/-- Settles O45: a mode set leaves port C, so its recalculation is silent. -/
theorem modeSetReplacesTheControlRegister : Obligations.ModeSetReplacesTheControlRegister := by
  intro x v s hv h
  have hstore := next_csRecalc_of_cached (u := s.setCtrl v) h
  refine ⟨?_, hstore⟩
  calc exec (.outPpiCtrl x v) s
    _ = .next (csRecalc (controlWrite v s)).noRet := rfl
    _ = .next (csRecalc (s.setCtrl v)).noRet := by rw [controlWrite_of_mode hv]
    _ = .next (s.setCtrl v).noRet := hstore

/-- Settles O48: the diagnostic is no register, so the recalculation that follows it is silent. -/
theorem outOfRangeSubAddresses : Obligations.OutOfRangeSubAddresses :=
  fun n v s h => ⟨rfl, csRecalc_same (s.report (.ppiBadSubWrite (n + 4) v)) h⟩

end Sys2Proof.Machine

/-! PROOFS. The interrupt mediation (43_interrupt_mediation.md): the detector's rows, the re-poll and the service line by
line; over every operation what it does to the two flags and the detector; and the schedule of the service. -/

namespace Sys2Proof.Machine

/-! ## The detector's step on a byte -/

/-- 0x4D in `SawPrefixED`: the RETI event, whose poll alone decides `S.liveIrq` (R234, R238, R239; D11, D14). -/
theorem fetchObserve_of_return {b : Byte} {s : State} (h : s.det = .sawPrefixED ∧ b = 0x4D) :
    ∃ d, fetchObserve b s = { s with
      det := .idle, liveIrq := s.pollAnswer, history := .poll :: s.history
      answers := s.answers.afterCall .poll, diags := d } := by
  obtain ⟨d, hevent⟩ := retiEvent_eq (s.setDet (detNext s.det b))
  have hnext : detNext s.det b = .idle := by rw [detNext_eq, if_neg (by simp [h.1])]
  rw [fetchObserve_fires b s ((detFires_iff _ _).2 h), hevent, hnext, liveAfterPoll_eq]
  exact ⟨d, rfl⟩

/-- Anywhere else the detector moves and nothing fires (R230, R236). -/
theorem fetchObserve_of_no_return {b : Byte} {s : State} (h : ¬(s.det = .sawPrefixED ∧ b = 0x4D)) :
    fetchObserve b s = s.setDet (if s.det = .idle ∧ b = 0xED then .sawPrefixED else .idle) := by
  rw [fetchObserve_quiet b s (Bool.eq_false_iff.2 (mt (detFires_iff _ _).1 h)), detNext_eq]

/-- From `Idle` every byte but 0xED leaves the state as it is (R231, R233). -/
theorem fetchObserve_of_idle {b : Byte} {s : State} (h : s.det = .idle) (hb : b ≠ 0xED) : fetchObserve b s = s := by
  rw [fetchObserve_of_no_return (by simp [h]), if_neg fun hx => hb hx.2, ← h]
  rfl

/-- From `SawPrefixED` every byte but 0x4D goes back to `Idle`, a second 0xED included (R235). -/
theorem fetchObserve_of_sawPrefixED {b : Byte} {s : State} (h : s.det = .sawPrefixED) (hb : b ≠ 0x4D) :
    fetchObserve b s = s.setDet .idle := by
  rw [fetchObserve_of_no_return fun hx => hb hx.2, if_neg (by simp [h])]

/-! ## The service, line by line of R241's table -/

theorem recalcService_of_clear {s : State} (iff1 iff2 : Bool) (h : s.recalc = false) : recalcService iff1 iff2 s = s := by
  simp [recalcService, h]

theorem recalcService_of_live {s : State} (iff1 iff2 : Bool) (h : s.recalc = true) (hl : s.liveIrq = true) :
    recalcService iff1 iff2 s = s.setRecalc (iff1 || iff2) := by
  rw [recalcService, if_pos h, if_pos hl, recalcAfterService_eq, Bool.true_and]

/-- With no interrupt live the service polls, and the flag becomes the answer (R239; D14). -/
theorem recalcService_of_owed {s : State} (iff1 iff2 : Bool) (h : s.recalc = true) (hl : s.liveIrq = false) :
    recalcService iff1 iff2 s = { s with
      liveIrq := s.pollAnswer, recalc := iff1 || iff2, history := .poll :: s.history
      answers := s.answers.afterCall .poll } := by
  rw [recalcService, if_pos h, if_neg (by simp [hl]), recalcAfterService_eq, Bool.true_and, repoll_eq, liveAfterPoll_eq, hl,
    Bool.false_or]
  rfl

/-! ## What an operation does to the flags -/

/-- `t` has the detector, the two interrupt flags and the waiting requests of `s`. -/
structure IrqQuiet (s t : State) : Prop where
  pending : t.pending = s.pending := by exact rfl
  det     : t.det = s.det := by exact rfl
  liveIrq : t.liveIrq = s.liveIrq := by exact rfl
  recalc  : t.recalc = s.recalc := by exact rfl

/-- The last call of `i` from `s` to `t` is a poll, made by the RETI event, or by a re-poll or a service, which never clear
`S.liveIrq` (R238, R239, R241). -/
def Polls (i : Instr) (s t : State) : Prop :=
  (∃ h, t.history = .poll :: h) ∧
  (FiresReti i s ∨ ((i = .repoll ∨ ∃ f g, i = .recalcSvc f g) ∧ (s.liveIrq = true → t.liveIrq = true)))

/-- What an operation other than RESET can do to the detector and the flags: the detector moves only under the CPU,
`S.liveIrq` only at a poll, `S.recalc` up by a request and down by a service with both enables clear. A field left out of
a proof is one that stands. -/
structure IrqEffect (i : Instr) (s t : State) : Prop where
  pending : t.pending = s.pending := by exact rfl
  det     : t.det = s.det ∨ ∀ dma, askedBy dma i = .cpu := by exact .inl rfl
  liveIrq : t.liveIrq = s.liveIrq ∨ Polls i s t := by exact .inl rfl
  recalc  : t.recalc = s.recalc ∨ (t.recalc = true ∧ (i = .recalcReq ∨ RequestsInside i s)) ∨
    (t.recalc = false ∧ i = .recalcSvc false false) := by exact .inl rfl

theorem IrqQuiet.trans {s t u : State} (h : IrqQuiet s t) (k : IrqQuiet t u) : IrqQuiet s u :=
  ⟨k.pending.trans h.pending, k.det.trans h.det, k.liveIrq.trans h.liveIrq, k.recalc.trans h.recalc⟩

theorem IrqQuiet.effect {i : Instr} {s t : State} (h : IrqQuiet s t) : IrqEffect i s t :=
  ⟨h.pending, .inl h.det, .inl h.liveIrq, .inl h.recalc⟩

theorem IrqEffect.noRet {i : Instr} {s t : State} (h : IrqEffect i s t) : IrqEffect i s t.noRet :=
  ⟨h.pending, h.det, h.liveIrq, h.recalc⟩

/-! ### The shared operations -/

/-- A memory write changes RAM and the diagnostics at most. `stored` is what the write's own law says of the RAM it
leaves. -/
theorem IrqQuiet.of_memoryWrite {s t : State} {stored : Memory → Prop}
    (h : ∃ m d, t = { s with ram := m, diags := d } ∧ stored m) : IrqQuiet s t := by
  obtain ⟨m, d, rfl, -⟩ := h
  exact {}

theorem virtWrite_irqQuiet (va : VirtAddr) (v : Byte) (s : State) : IrqQuiet s (virtWrite va v s) := by
  obtain ⟨m, d, h, -⟩ := virtWrite_eq va v s
  rw [h]
  exact {}

theorem virtRead_irqQuiet (va : VirtAddr) (quiet : Bool) (s : State) : IrqQuiet s (virtRead va quiet s) := by
  obtain ⟨d, h⟩ := virtRead_eq va quiet s
  rw [h]
  exact {}

theorem PutsByteOnBus.irqQuiet {s t : State} (h : PutsByteOnBus s t) : IrqQuiet s t := by
  obtain ⟨-, -, -, -, rfl⟩ := h
  exact {}

theorem spiExchange_irqQuiet (b : Byte) (s : State) : IrqQuiet s (spiExchange b s) := by
  unfold spiExchange
  split <;> exact {}

/-- A recalculation writes the cache and the history. -/
theorem csRecalc_irqQuiet (s : State) : IrqQuiet s (csRecalc s) := by
  rw [csRecalc_eq]
  exact {}

theorem ppiWrite_irqQuiet (sub : BitVec 2) (v : Byte) (s : State) : IrqQuiet s (ppiWrite sub.toNat v s) := by
  obtain ⟨-, h⟩ | ⟨-, h⟩ | ⟨-, h⟩ | ⟨-, -, h⟩ | ⟨-, -, h⟩ := ppiWrite_cases sub v s <;> rw [h] <;>
    exact .trans {} (csRecalc_irqQuiet _)

/-- Only the CPU fetches opcodes. -/
theorem askedBy_of_fetch {i : Instr} {s : State} {b : Byte} (h : fetchedByte i s = some b) (dma : Bool) :
    askedBy dma i = .cpu := by
  cases i with
  | pfxDd | pfxFd | pfxCb | pfxEd | opcReti | otherIdle _ | otherSawed _ | fetchObserve _ | cpuMemRead _ _ => rfl
  | _ => cases h

/-- Every opcode fetch of 0x4D fires the RETI event in `SawPrefixED` (R234, R236; D11). -/
theorem firesReti_of_fetch {i : Instr} {s : State} (h : fetchedByte i s = some 0x4D) (hdet : s.det = .sawPrefixED) :
    FiresReti i s := by
  refine .inr ⟨hdet, ?_⟩
  cases i with
  | opcReti => exact .inl rfl
  | fetchObserve b => cases h; exact .inr (.inl rfl)
  | otherIdle b => cases h; exact .inr (.inr (.inl rfl))
  | otherSawed b => cases h; exact .inr (.inr (.inr (.inl rfl)))
  | cpuMemRead va m1 =>
    cases m1 with
    | false => cases h
    | true => exact .inr (.inr (.inr (.inr ⟨va, rfl, Option.some.inj h⟩)))
  | pfxDd | pfxFd | pfxCb | pfxEd => exact absurd (Option.some.inj h) (by decide)
  | _ => cases h

/-- The detector's step on the byte fetched, made at a state `u` that the operation reached without touching the flags. -/
theorem fetchObserve_irqEffect {i : Instr} {b : Byte} {s u : State} (hi : fetchedByte i s = some b)
    (hu : IrqQuiet s u) : IrqEffect i s (fetchObserve b u) := by
  by_cases h : u.det = .sawPrefixED ∧ b = 0x4D
  · obtain ⟨d, hstep⟩ := fetchObserve_of_return h
    obtain ⟨hdet, rfl⟩ := h
    have hfires := firesReti_of_fetch hi (hu.det ▸ hdet)
    rw [hstep]
    exact ⟨hu.pending, .inr (askedBy_of_fetch hi), .inr ⟨⟨_, rfl⟩, .inl hfires⟩, .inl hu.recalc⟩
  · rw [fetchObserve_of_no_return h]
    exact ⟨hu.pending, .inr (askedBy_of_fetch hi), .inl hu.liveIrq, .inl hu.recalc⟩

theorem nonFetchObserve_irqEffect {i : Instr} {s u : State} (hu : IrqQuiet s u) (hcpu : ∀ dma, askedBy dma i = .cpu) :
    IrqEffect i s (nonFetchObserve u) := by
  rw [nonFetchObserve_eq_setDet]
  exact ⟨hu.pending, .inr hcpu, .inl hu.liveIrq, .inl hu.recalc⟩

theorem cpuMemRead_irqEffect (va : VirtAddr) (m1 : Bool) (s : State) :
    IrqEffect (.cpuMemRead va m1) s (cpuMemRead va m1 s) := by
  have hread := virtRead_irqQuiet va false s
  cases m1 with
  | false => exact nonFetchObserve_irqEffect hread fun _ => rfl
  | true => exact fetchObserve_irqEffect rfl hread

/-- Of the service's three lines one polls, and then no interrupt was live. -/
theorem recalcService_irqEffect (iff1 iff2 : Bool) (s : State) :
    IrqEffect (.recalcSvc iff1 iff2) s (recalcService iff1 iff2 s) := by
  cases hr : s.recalc with
  | false => rw [recalcService_of_clear iff1 iff2 hr]; exact {}
  | true =>
    have henables : (iff1 || iff2) = s.recalc ∨
        ((iff1 || iff2) = false ∧ Instr.recalcSvc iff1 iff2 = .recalcSvc false false) := by
      cases iff1 <;> cases iff2 <;> simp [hr]
    cases hl : s.liveIrq with
    | true => rw [recalcService_of_live iff1 iff2 hr hl]; exact { recalc := henables.imp_right .inr }
    | false =>
      rw [recalcService_of_owed iff1 iff2 hr hl]
      exact {
        liveIrq := .inr ⟨⟨_, rfl⟩, .inr ⟨.inr ⟨iff1, iff2, rfl⟩, by simp [hl]⟩⟩
        recalc := henables.imp_right .inr }

theorem repoll_irqEffect (s : State) : IrqEffect .repoll s (repoll s) where
  liveIrq := .inr ⟨⟨_, rfl⟩, .inr ⟨.inl rfl, fun hl => by rw [repoll_eq, liveAfterPoll_eq, hl, Bool.true_or]⟩⟩

/-- A collaborator's request raises the flag, and only where there is one (R240; log entry 5). -/
theorem recalcRequestIf_irqEffect {i : Instr} {requests : Bool} {s u : State} (hu : IrqQuiet s u)
    (h : requests = true → RequestsInside i s) : IrqEffect i s (recalcRequestIf requests u) := by
  cases requests with
  | false => exact hu.effect
  | true => exact ⟨hu.pending, .inl hu.det, .inl hu.liveIrq, .inr (.inl ⟨rfl, .inr (h rfl)⟩)⟩

/-- A port write delegates where the address is claimed, and where it selects the floppy controller (R154, R160). -/
theorem portWrite_irqEffect (addr : PortAddr) (v : Byte) (s : State) :
    IrqEffect (.portWrite addr v) s (portWrite addr v s) := by
  cases hclaim : s.claimsAnswer addr with
  | true =>
    rw [portWrite_claimed addr v s hclaim]
    exact recalcRequestIf_irqEffect {} fun h => .inr (.inr ⟨addr, v, rfl, .inl ⟨hclaim, h⟩⟩)
  | false =>
    rw [portWrite_unclaimed addr v s hclaim]
    cases ht : portDecode s.params.ideConfigured (maskPort addr) with
    | fdc sub => exact recalcRequestIf_irqEffect {} fun h => .inr (.inr ⟨addr, v, rfl, .inr ⟨hclaim, sub, ht, h⟩⟩)
    | ppi sub => exact (IrqQuiet.trans {} (ppiWrite_irqQuiet sub v _)).effect
    | ide _ | led | traceLo | traceHi | unmapped => exact {}

/-! ### Every operation -/

/-- The inversion of `exec` for the detector and the flags. The last arm holds the operations whose meaning is a plain
update of other fields. -/
theorem exec_irqEffect {i : Instr} {s t : State} (h : exec i s = .next t) :
    (∃ p, i = .reset p ∧ t = (resetWith p s).noRet) ∨ IrqEffect i s t := by
  cases i with
  | reset p => cases h; exact .inl ⟨p, rfl, rfl⟩
  | pfxDd | pfxFd | pfxCb | pfxEd | opcReti | otherIdle b | otherSawed b | fetchObserve b =>
    cases h; exact .inr (fetchObserve_irqEffect rfl {}).noRet
  | nonfetch => cases h; exact .inr (nonFetchObserve_irqEffect {} fun _ => rfl).noRet
  | cpuMemRead va m1 => cases h; exact .inr (cpuMemRead_irqEffect va m1 s)
  | retiEvent => cases h; exact .inr { liveIrq := .inr ⟨⟨_, rfl⟩, .inl (.inl rfl)⟩ }
  | repoll => cases h; exact .inr (repoll_irqEffect s).noRet
  | recalcReq => cases h; exact .inr { recalc := .inr (.inl ⟨rfl, .inl rfl⟩) }
  | recalcSvc iff1 iff2 => cases h; exact .inr (recalcService_irqEffect iff1 iff2 s).noRet
  | outClaimed addr v =>
    cases h; exact .inr (recalcRequestIf_irqEffect {} fun hreq => .inl ⟨addr, v, rfl, hreq⟩).noRet
  | outFdc sub v => cases h; exact .inr (recalcRequestIf_irqEffect {} fun hreq => .inr (.inl ⟨sub, v, rfl, hreq⟩)).noRet
  | portWrite addr v => cases h; exact .inr (portWrite_irqEffect addr v s).noRet
  | portRead addr => cases h; exact .inr (portRead_putsByte addr s).irqQuiet.effect
  | outPpiA x v => cases h; exact .inr (ppiWrite_irqQuiet 0 v s).effect.noRet
  | outPpiB x v => cases h; exact .inr (ppiWrite_irqQuiet 1 v s).effect.noRet
  | outPpiC x v => cases h; exact .inr (ppiWrite_irqQuiet 2 v s).effect.noRet
  | outPpiCtrl x v => cases h; exact .inr (ppiWrite_irqQuiet 3 v s).effect.noRet
  | modeset v | bsr ign n b | csRecalc => cases h; exact .inr (IrqQuiet.trans {} (csRecalc_irqQuiet _)).effect.noRet
  | memwBase off v => cases h; exact .inr (IrqQuiet.of_memoryWrite (baseWrite_eq _ v s)).effect.noRet
  | memwExt off v => cases h; exact .inr (IrqQuiet.of_memoryWrite (extWrite_eq _ v s)).effect.noRet
  | physWrite a v => cases h; exact .inr (IrqQuiet.of_memoryWrite (physWrite_eq a v s)).effect.noRet
  | virtWrite va v | cpuMemWrite va v => cases h; exact .inr (virtWrite_irqQuiet va v s).effect.noRet
  | virtRead va quiet => cases h; exact .inr (virtRead_irqQuiet va quiet s).effect
  | spiExchange b => cases h; exact .inr (spiExchange_irqQuiet b s).effect
  | _ => cases h; exact .inr {}

/-- No operation touches the requests that wait, RESET included. -/
theorem exec_pending {i : Instr} {s t : State} (h : exec i s = .next t) : t.pending = s.pending := by
  obtain ⟨p, -, rfl⟩ | e := exec_irqEffect h
  · rfl
  · exact e.pending

/-! ## Where the CPU stands -/

theorem opcodeNext_iff (c : CpuAt) : c.opcodeNext = true ↔ c = .boundary ∨ c = .prefixed := by
  cases c <;> simp [CpuAt.opcodeNext]

theorem afterFetch_eq_extended_iff (c : CpuAt) (ends : Bool) (b : Byte) :
    c.afterFetch ends b = .extended ↔ (c = .boundary ∨ c = .prefixed) ∧ b = 0xED := by
  rw [← opcodeNext_iff]
  unfold CpuAt.afterFetch
  split_ifs with hext <;> simp_all [Config.pfxExt]

theorem afterFetch_ne_boundary (c : CpuAt) (b : Byte) : c.afterFetch false b ≠ .boundary := by
  unfold CpuAt.afterFetch
  split_ifs <;> simp_all

theorem afterFetch_of_ends (c : CpuAt) (b : Byte) : c.afterFetch true b = .boundary ∨ c.afterFetch true b = .extended := by
  rw [CpuAt.afterFetch, if_pos rfl]
  split_ifs <;> simp

/-- After an operation of the CPU that is no opcode fetch. -/
theorem cpuAfter_noFetch {q : Asked} {i : Instr} {s : State} (t : State) (h : askedBy q.dma i = .cpu)
    (hb : fetchedByte i s = none) :
    cpuAfter q i s t =
      if s.cpuAt = .extended ∧ ¬(isOperandRead i = true ∧ t.det = .idle) then .extended
      else if q.ends then .boundary else .inside := by simp [cpuAfter, h, hb]

theorem cpuAfter_ne_boundary {q : Asked} {i : Instr} {s : State} (t : State) (h : askedBy q.dma i = .cpu)
    (he : q.ends = false) : cpuAfter q i s t ≠ .boundary := by
  cases hb : fetchedByte i s with
  | some b => rw [cpuAfter_fetch q i s t b h hb, he]; exact afterFetch_ne_boundary _ b
  | none => rw [cpuAfter_noFetch t h hb, he]; split_ifs <;> simp_all

theorem cpuAfter_of_ends {q : Asked} {i : Instr} {s : State} (t : State) (h : askedBy q.dma i = .cpu)
    (he : q.ends = true) : cpuAfter q i s t = .boundary ∨ cpuAfter q i s t = .extended := by
  cases hb : fetchedByte i s with
  | some b => rw [cpuAfter_fetch q i s t b h hb, he]; exact afterFetch_of_ends _ b
  | none => rw [cpuAfter_noFetch t h hb, if_pos he]; split_ifs <;> simp

/-- Between the two opcode bytes the CPU stays until it reads (R242; log entry 18). -/
theorem cpuAfter_stays_extended {q : Asked} {i : Instr} {s : State} (t : State) (hs : s.cpuAt = .extended)
    (hb : fetchedByte i s = none) (hr : isOperandRead i = false) : cpuAfter q i s t = .extended := by
  by_cases h : askedBy q.dma i = .cpu
  · rw [cpuAfter_noFetch t h hb, if_pos (by simp [hs, hr])]
  · rw [cpuAfter_other q i s t h, hs]

/-- Only an opcode fetch brings the CPU there. -/
theorem cpuAfter_ne_extended {q : Asked} {i : Instr} {s : State} (t : State) (hs : s.cpuAt ≠ .extended)
    (hb : fetchedByte i s = none) : cpuAfter q i s t ≠ .extended := by
  by_cases h : askedBy q.dma i = .cpu
  · rw [cpuAfter_noFetch t h hb, if_neg fun hx => hs hx.1]
    split_ifs <;> simp
  · rw [cpuAfter_other q i s t h]
    exact hs

/-! ## The service in its turn -/

/-- A service waits exactly inside an instruction (R242). -/
theorem waits_service_iff {s : State} {q : Asked} {iff1 iff2 : Bool}
    (hd : decode s.ctx q.request = .ok (.recalcSvc iff1 iff2)) : s.waits q = true ↔ s.cpuAt ≠ .boundary := by
  rw [waits_of_decode_ok hd, Bool.not_eq_true', ← Bool.not_eq_true, inTurn_recalcSvc]

/-- At a boundary it is performed, and the CPU is still at that boundary. -/
theorem step_service {s : State} {q : Asked} {rest : List Asked} {iff1 iff2 : Bool} (hp : s.pending = q :: rest)
    (hd : decode s.ctx q.request = .ok (.recalcSvc iff1 iff2)) (hc : s.cpuAt = .boundary) :
    ∃ t, exec (.recalcSvc iff1 iff2) (s.takeRequest rest) = .next t ∧ step s = .next (t.finish .boundary) := by
  refine ⟨_, rfl, ?_⟩
  rw [step_of_inTurn (waiting := []) hp nofun hd ((inTurn_recalcSvc _ _ _ _).2 hc) rfl,
    cpuAfter_other q _ s _ (by simp [askedBy]), hc]
  rfl

/-- A request that waits is still there after the step: the one performed did not wait. -/
theorem step_keeps_waiting {s t : State} {q : Asked} (hq : q ∈ s.pending) (hw : s.waits q = true)
    (h : step s = .next t) : q ∈ t.pending := by
  obtain ⟨-, rfl⟩ | ⟨waiting, r, rest, i, u, hp, -, hd, hturn, hexec, rfl⟩ := step_next s t h
  · exact hq
  · have hne : q ≠ r := by
      rintro rfl
      simp [waits_of_decode_ok hd, hturn] at hw
    rw [finish_pending, exec_pending hexec, takeRequest_pending]
    rw [hp] at hq
    simpa [hne] using hq

/-! ## Endless runs -/

section EndlessRun

variable {σ : Nat → Asked} {ρ : Nat → State}

/-- Every point of a run performs its operation, with no request left over. -/
theorem Run.performs (hrun : Run σ ρ) (n : Nat) :
    ∃ i u c, decode (ρ n).ctx (σ n).request = .ok i ∧ exec i ((ρ n).takeRequest []) = .next u ∧
      ρ (n + 1) = u.finish c := by
  have hstep := hrun.steps n
  cases hd : decode (ρ n).ctx (σ n).request with
  | error e =>
    rw [step_of_rejected (s := { ρ n with pending := [σ n] }) (waiting := []) rfl nofun hd] at hstep
    cases hstep
  | ok i =>
    have hturn : (ρ n).inTurn (σ n).dma i = true := by simpa [waits_of_decode_ok hd] using hrun.inTurn n
    obtain ⟨u, hu⟩ := exec_completes i ((ρ n).takeRequest [])
    rw [step_of_inTurn (s := { ρ n with pending := [σ n] }) (waiting := []) rfl nofun hd hturn hu] at hstep
    exact ⟨i, u, _, rfl, hu, (Host.Outcome.next.inj hstep).symm⟩

/-- Once started, a set flag stays set at every point that is no service: RESET comes no more (R302). -/
theorem Run.keeps_owed (hrun : Run σ ρ) {n : Nat} (hs : (ρ n).started = true) (hr : (ρ n).recalc = true)
    (hn : ¬ ServiceAt σ ρ n) : (ρ (n + 1)).started = true ∧ (ρ (n + 1)).recalc = true := by
  obtain ⟨i, u, c, hd, hu, hnext⟩ := hrun.performs n
  rw [hnext]
  refine ⟨rfl, ?_⟩
  obtain ⟨p, rfl, -⟩ | e := exec_irqEffect hu
  · have hfresh : (!(ρ n).started) = true := decodedOperationsAreWellFormed _ _ _ hd
    simp [hs] at hfresh
  · obtain hsame | ⟨hset, -⟩ | ⟨-, rfl⟩ := e.recalc
    · exact hsame.trans hr
    · exact hset
    · exact absurd ⟨false, false, hd⟩ hn

/-- The next service finds the flag still set. -/
theorem Run.owed_at_next_service (hrun : Run σ ρ) (k : Nat) {n : Nat} (hsvc : ServiceAt σ ρ (n + k))
    (hs : (ρ n).started = true) (hr : (ρ n).recalc = true) :
    ∃ m, n ≤ m ∧ ServiceAt σ ρ m ∧ (ρ m).recalc = true := by
  induction k generalizing n with
  | zero => exact ⟨n, le_rfl, hsvc, hr⟩
  | succ k ih =>
    by_cases hn : ServiceAt σ ρ n
    · exact ⟨n, le_rfl, hn, hr⟩
    · obtain ⟨hs', hr'⟩ := hrun.keeps_owed hs hr hn
      rw [Nat.add_comm k, ← Nat.add_assoc] at hsvc
      obtain ⟨m, hm, hat, hrm⟩ := ih hsvc hs' hr'
      exact ⟨m, by omega, hat, hrm⟩

theorem Run.boundary_of_service (hrun : Run σ ρ) {m : Nat} (hsvc : ServiceAt σ ρ m) : (ρ m).cpuAt = .boundary := by
  obtain ⟨iff1, iff2, hd⟩ := hsvc
  have hturn := hrun.inTurn m
  rwa [waits_of_decode_ok hd, Bool.not_eq_false', inTurn_recalcSvc] at hturn

/-- A service that finds the flag set and no interrupt live polls (R241). -/
theorem Run.service_polls (hrun : Run σ ρ) {m : Nat} (hsvc : ServiceAt σ ρ m) (hr : (ρ m).recalc = true)
    (hl : (ρ m).liveIrq = false) : (ρ (m + 1)).history = .poll :: (ρ m).history := by
  obtain ⟨iff1, iff2, hd⟩ := hsvc
  obtain ⟨i, u, c, hi, hu, hnext⟩ := hrun.performs m
  cases hd.symm.trans hi
  cases hu
  rw [hnext, recalcService_of_owed (s := (ρ m).takeRequest []) iff1 iff2 hr hl]
  rfl

end EndlessRun

/-! ## The obligations -/

/-- Settles O28: the first fetch only moves the detector, and the second fires the event. -/
theorem returnSequenceFiresOnce : Obligations.ReturnSequenceFiresOnce := by
  intro va wa s t hidle hed ht h4d
  obtain ⟨t', ht', -, hdet, hquiet, hframe⟩ := cpuFetchStepsTheDetector va s
  cases ht.symm.trans ht'
  rw [if_pos ⟨hidle, hed⟩] at hdet
  rw [if_neg (by simp [hidle])] at hquiet
  obtain ⟨-, hhist, -⟩ := hquiet
  obtain ⟨u, hu, -, hdet', hevent, hframe'⟩ := cpuFetchStepsTheDetector wa t
  rw [if_neg (by simp [hdet])] at hdet'
  rw [if_pos ⟨hdet, h4d⟩] at hevent
  obtain ⟨hlive, hhist', -⟩ := hevent
  have hrecalc : t.recalc = s.recalc := by rw [hframe]
  have hrecalc' : u.recalc = t.recalc := by rw [hframe']
  exact ⟨u, hu, hdet', hlive, by rw [hhist', hhist], hrecalc'.trans hrecalc⟩

/-- Settles O29: neither read fires, the second because it is no opcode fetch. -/
theorem operandReadOfTheSecondByteDoesNotFire : Obligations.OperandReadOfTheSecondByteDoesNotFire := by
  intro va wa s t hidle _ ht
  obtain ⟨t', ht', -, -, hquiet, -⟩ := cpuFetchStepsTheDetector va s
  cases ht.symm.trans ht'
  rw [if_neg (by simp [hidle])] at hquiet
  obtain ⟨hlive, hhist, -⟩ := hquiet
  obtain ⟨⟨d, hread⟩, -⟩ := cpuDataReadNeverFires wa t
  exact ⟨_, hread, rfl, hlive, congrArg (ExtCall.translate wa :: ·) hhist⟩

/-- Settles O30: the one entry of the table that fires, and the rest. -/
theorem detectorFollowsItsTable : Obligations.DetectorFollowsItsTable := by
  intro b s
  refine ⟨_, rfl, ?_⟩
  by_cases h : s.det = .sawPrefixED ∧ b = 0x4D
  · obtain ⟨d, hstep⟩ := fetchObserve_of_return h
    rw [hstep, if_pos h, if_neg (by simp [h.1])]
    exact ⟨rfl, ⟨rfl, rfl, rfl⟩, rfl⟩
  · rw [fetchObserve_of_no_return h, if_neg h]
    exact ⟨rfl, ⟨rfl, rfl, rfl, rfl⟩, rfl⟩

/-- Settles O36: an operation that polls without the RETI event keeps a set flag. -/
theorem liveIrqFallsOnlyByTheRetiEvent : Obligations.LiveIrqFallsOnlyByTheRetiEvent := by
  intro i s t h hs ht
  obtain ⟨p, hp, -⟩ | e := exec_irqEffect h
  · exact .inr ⟨p, hp⟩
  · obtain hsame | ⟨-, hfires | ⟨-, hkeep⟩⟩ := e.liveIrq
    · simp [hsame, hs] at ht
    · exact .inl hfires
    · simp [hkeep hs] at ht

/-- Settles O37: a flag that has changed was written at a poll, the operation's last call. -/
theorem liveIrqRisesOnlyByAPoll : Obligations.LiveIrqRisesOnlyByAPoll := by
  intro i s t h hs ht
  obtain ⟨p, -, rfl⟩ | e := exec_irqEffect h
  · cases ht
  · obtain hsame | ⟨hpoll, hsource⟩ := e.liveIrq
    · simp [hsame, hs] at ht
    · exact ⟨hsource.imp_right And.left, hpoll⟩

/-- Settles O39: the flag is set by a request, and cleared by a service with both enables clear. -/
theorem recalcFlagChangesOnlyByItsOperations : Obligations.RecalcFlagChangesOnlyByItsOperations := by
  intro i s t h
  obtain ⟨p, hp, rfl⟩ | e := exec_irqEffect h
  · exact ⟨fun _ => nofun, fun _ _ => .inr ⟨p, hp⟩⟩
  · obtain hsame | ⟨hset, hrequest⟩ | ⟨hclear, hservice⟩ := e.recalc
    · exact ⟨fun hs ht => by simp [hsame, hs] at ht, fun hs ht => by simp [hsame, hs] at ht⟩
    · exact ⟨fun _ _ => hrequest, fun _ ht => by simp [hset] at ht⟩
    · exact ⟨fun _ ht => by simp [hclear] at ht, fun _ _ => .inl hservice⟩

/-- Settles O60: the service waits exactly inside an instruction; the CPU's place moves as its own fetches say; and in a fair
run the flag stays set up to the next service, which comes in its turn. -/
theorem recalcServiceComesAtBoundariesOnly : Obligations.RecalcServiceComesAtBoundariesOnly := by
  refine ⟨fun s q rest iff1 iff2 hp hd => ⟨waits_service_iff hd, step_service hp hd⟩,
    fun s t q hq hw h => step_keeps_waiting hq hw h,
    fun s t u q i hother h => ⟨cpuAfter_other q i s u hother, ?_⟩,
    fun s t q i hcpu => ⟨cpuAfter_ne_boundary t hcpu, cpuAfter_of_ends t hcpu⟩,
    fun s t q i b hcpu hb => ?_,
    fun s t q i hs hb hr => cpuAfter_stays_extended t hs hb hr,
    fun s t q i hs hb => cpuAfter_ne_extended t hs hb,
    fun σ ρ hrun hfair n hs hr => ?_⟩
  · obtain ⟨p, hp, rfl⟩ | e := exec_irqEffect h
    · exact .inr ⟨⟨p, hp⟩, rfl⟩
    · exact .inl (e.det.resolve_right fun hcpu => hother (hcpu q.dma))
  · rw [cpuAfter_fetch q i s t b hcpu hb, afterFetch_eq_extended_iff]
  · obtain ⟨m, hnm, hsvc⟩ := hfair.services n
    obtain ⟨k, rfl⟩ := Nat.exists_eq_add_of_le hnm
    obtain ⟨m, hm, hat, hrm⟩ := hrun.owed_at_next_service k hsvc hs hr
    exact ⟨m, hm, hat, hrun.boundary_of_service hat, hrm, hrun.service_polls hat hrm⟩

/-- Settles O31: from `Idle` only 0xED moves the detector. -/
theorem fetchRowsFromIdle : Obligations.FetchRowsFromIdle := by
  intro s hs
  have hstays : ∀ b : Byte, b ≠ 0xED →
      Host.Outcome.next (fetchObserve b s).noRet = (.next { s with ret := none } : Result) :=
    fun b hb => by rw [fetchObserve_of_idle hs hb]; rfl
  refine ⟨hstays 0xDD (by decide), hstays 0xFD (by decide), hstays 0xCB (by decide), ?_, hstays 0x4D (by decide), hstays⟩
  have hed : fetchObserve 0xED s = s.setDet .sawPrefixED := by
    rw [fetchObserve_of_no_return (by simp [hs]), if_pos ⟨hs, rfl⟩]
  exact congrArg (fun t => Host.Outcome.next (State.noRet t)) hed

/-- Settles O32: from `SawPrefixED` every byte goes back to `Idle`, and 0x4D fires. -/
theorem fetchRowsFromSawPrefixED : Obligations.FetchRowsFromSawPrefixED := by
  intro s hs
  have hback : ∀ b : Byte, b ≠ 0x4D →
      Host.Outcome.next (fetchObserve b s).noRet = (.next { s with det := .idle, ret := none } : Result) :=
    fun b hb => by rw [fetchObserve_of_sawPrefixED hs hb]; rfl
  refine ⟨?_, hback, ?_⟩
  · obtain ⟨d, hstep⟩ := fetchObserve_of_return (b := 0x4D) ⟨hs, rfl⟩
    exact ⟨d, congrArg (fun t => Host.Outcome.next (State.noRet t)) hstep⟩
  · rintro i (rfl | rfl | rfl | rfl) <;> exact hback _ (by decide)

/-- Settles O33: the event is the re-poll of a cleared flag. -/
theorem retiEventAndRepoll : Obligations.RetiEventAndRepoll := by
  intro s
  constructor
  · obtain ⟨d, hevent⟩ := retiEvent_eq s
    rw [liveAfterPoll_eq, Bool.false_or] at hevent
    exact ⟨d, congrArg (fun t => Host.Outcome.next (State.noRet t)) hevent⟩
  · rw [← liveAfterPoll_eq]
    rfl

/-- Settles O34: a request writes the flag, and nothing else but the bus. -/
theorem recalcRequestSetsTheFlag : Obligations.RecalcRequestSetsTheFlag := by
  refine fun s => ⟨rfl, fun h => ?_⟩
  calc exec .recalcReq s
    _ = .next { s with recalc := true, ret := none } := rfl
    _ = .next { s with ret := none } := by rw [← h]

/-- Settles O35: each line of the service's table. -/
theorem recalcServiceFollowsItsTable : Obligations.RecalcServiceFollowsItsTable := by
  refine fun iff1 iff2 s => ⟨fun hr => ?_, fun hr hl => ?_, fun hr hl => ?_⟩
  · exact congrArg (fun t => Host.Outcome.next (State.noRet t)) (recalcService_of_clear iff1 iff2 hr)
  · exact congrArg (fun t => Host.Outcome.next (State.noRet t)) (recalcService_of_live iff1 iff2 hr hl)
  · exact congrArg (fun t => Host.Outcome.next (State.noRet t)) (recalcService_of_owed iff1 iff2 hr hl)

end Sys2Proof.Machine

/-! PROOFS. The SPI bridge (44_spi_bridge.md): the reversal of a byte, and the exchange with and without a device. -/

namespace Sys2Proof.Machine

/-! ## The operations -/

/-- REV8 writes the bus, and nothing else (R260). -/
theorem exec_rev8 (b : Byte) (s : State) : exec (.rev8 b) s = .next { s with ret := some (bitReverse b) } := rfl

/-- With no device the bus floats, and nothing is called (R261). -/
theorem spiExchange_of_detached {s : State} (b : Byte) (h : s.params.spiAttached = false) :
    spiExchange b s = { s with ret := some 0xFF } := by
  rw [spiExchange, if_neg (by simp [h])]
  rfl

/-- With a device there is one call, reversed on the way out and on the way back (R261). -/
theorem spiExchange_of_attached {s : State} (b : Byte) (h : s.params.spiAttached = true) :
    spiExchange b s = { s with
      ret := some (bitReverse (s.spiXferAnswer (bitReverse b)))
      history := .spiXfer (bitReverse b) :: s.history
      answers := { s.answers with spiXfer := s.answers.spiXfer.tail } } := by
  rw [spiExchange, if_pos h]
  rfl

/-! ## The obligations -/

/-- Settles O58: the byte returned is the reversal, bit by bit and twice over. -/
theorem bitReversalIsAnInvolution : Obligations.BitReversalIsAnInvolution := by
  refine fun b s => ⟨bitReverse b, exec_rev8 b s, bitReverse_getLsbD b, ?_⟩
  rw [exec_rev8, bitReverse_bitReverse]

/-- Settles O59: both reversals are REV8's, and the exchange goes by whether a device is attached. -/
theorem spiExchangeReversesBothWays : Obligations.SpiExchangeReversesBothWays :=
  fun b s => ⟨_, _, exec_rev8 b s, exec_rev8 _ s,
    fun h => congrArg Host.Outcome.next (spiExchange_of_detached b h),
    fun h => congrArg Host.Outcome.next (spiExchange_of_attached b h)⟩

end Sys2Proof.Machine

/-! PROOFS. Exceptions (60_exceptions.md): every operation completes and no well-formed request stops the machine; which
operations poll, said once for `exec`, and that none does while an interrupt is live. -/

namespace Sys2Proof.Machine

/-! ## Requests that decode -/

/-- Either every request waits, or there is an oldest that does not. -/
theorem all_wait_or_oldest (s : State) : (∀ q ∈ s.pending, s.waits q = true) ∨
    ∃ waiting q rest, s.pending = waiting ++ q :: rest ∧ (∀ w ∈ waiting, s.waits w = true) ∧ s.waits q = false := by
  cases h : s.pending.find? (fun q => !s.waits q) with
  | none => exact .inl (by simpa using h)
  | some q =>
    obtain ⟨hq, waiting, rest, hp, hw⟩ := List.find?_eq_some_iff_append.1 h
    exact .inr ⟨waiting, q, rest, hp, by simpa using hw, by simpa using hq⟩

/-- The decoder is the only source of a refusal (R101). -/
theorem safeStep_of_decodes {s : State} (h : ∀ q ∈ s.pending, ∃ i, decode s.ctx q.request = .ok i) : SafeStep s := by
  obtain hall | ⟨waiting, q, rest, hp, hw, hq⟩ := all_wait_or_oldest s
  · exact ⟨s, step_of_all_wait hall⟩
  · obtain ⟨i, hd⟩ := h q (by simp [hp])
    have hturn : s.inTurn q.dma i = true := by simpa [waits_of_decode_ok hd] using hq
    obtain ⟨t, -, hstep⟩ := stepPerformsTheOldestRequest s waiting q rest i hp hw hd hturn
    exact ⟨_, hstep⟩

/-- Of the requests that are not the DMA engine's only a service can be out of turn (R242). -/
theorem inTurn_unmarked {s : State} {i : Instr} (h : (∃ iff1 iff2, i = .recalcSvc iff1 iff2) → s.cpuAt = .boundary) :
    s.inTurn false i = true := by
  by_contra hturn
  obtain ⟨hservice, hinside⟩ | ⟨hdma, -⟩ := (inTurn_eq_false_iff s false i).1 (Bool.eq_false_iff.2 hturn)
  · exact hinside (h ((askedBy_scheduler false i).1 hservice))
  · exact askedBy_dma i hdma

/-! ## Polls of the controllers -/

/-- From `s` to `t` no controller is polled. -/
def PollQuiet (s t : State) : Prop := t.history.count .poll = s.history.count .poll

/-- The operations that can poll: the RETI event, an explicit re-poll, and a service that finds no interrupt live (R238,
R239, R241). -/
def MayPoll (i : Instr) (s : State) : Prop :=
  FiresReti i s ∨ i = .repoll ∨ ((∃ iff1 iff2, i = .recalcSvc iff1 iff2) ∧ s.liveIrq = false)

/-- With an interrupt live the service does not poll either (R241). -/
theorem mayPoll_of_live {i : Instr} {s : State} (hl : s.liveIrq = true) :
    MayPoll i s ↔ FiresReti i s ∨ i = .repoll := by
  simp [MayPoll, hl]

theorem PollQuiet.trans {s t u : State} (h : PollQuiet s t) (k : PollQuiet t u) : PollQuiet s u := Eq.trans k h

theorem PollQuiet.noRet {s t : State} (h : PollQuiet s t) : PollQuiet s t.noRet := h

/-! ### The shared operations -/

/-- A memory write changes RAM and the diagnostics at most. -/
theorem PollQuiet.of_memoryWrite {s t : State} {stored : Memory → Prop}
    (h : ∃ m d, t = { s with ram := m, diags := d } ∧ stored m) : PollQuiet s t := by
  obtain ⟨m, d, rfl, -⟩ := h
  rfl

theorem virtWrite_pollQuiet (va : VirtAddr) (v : Byte) (s : State) : PollQuiet s (virtWrite va v s) := by
  obtain ⟨m, d, h, -⟩ := virtWrite_eq va v s
  rw [h]
  rfl

theorem virtRead_pollQuiet (va : VirtAddr) (quiet : Bool) (s : State) : PollQuiet s (virtRead va quiet s) := by
  obtain ⟨d, h⟩ := virtRead_eq va quiet s
  rw [h]
  rfl

theorem spiExchange_pollQuiet (b : Byte) (s : State) : PollQuiet s (spiExchange b s) := by
  unfold spiExchange
  split <;> rfl

theorem count_poll_afterSelect (old new : BitVec 3) (h : List ExtCall) :
    (afterSelect old new h).count .poll = h.count .poll := by
  unfold afterSelect
  repeat' split
  all_goals rfl

/-- The events of a recalculation are no polls. -/
theorem csRecalc_pollQuiet (s : State) : PollQuiet s (csRecalc s) := by
  rw [csRecalc_eq_afterSelect]
  exact count_poll_afterSelect _ _ _

theorem ppiWrite_pollQuiet (sub : BitVec 2) (v : Byte) (s : State) : PollQuiet s (ppiWrite sub.toNat v s) := by
  obtain ⟨-, h⟩ | ⟨-, h⟩ | ⟨-, h⟩ | ⟨-, -, h⟩ | ⟨-, -, h⟩ := ppiWrite_cases sub v s <;> rw [h] <;>
    exact csRecalc_pollQuiet _

theorem targetRead_pollQuiet (t : PortTarget) (p : Byte) (s : State) : PollQuiet s (targetRead t p s) := by
  cases t with
  | ppi sub => obtain rfl | rfl | rfl | rfl := ppiSub_cases sub <;> rfl
  | ide _ | fdc _ | led | traceLo | traceHi | unmapped => rfl

theorem targetWrite_pollQuiet (t : PortTarget) (p v : Byte) (s : State) : PollQuiet s (targetWrite t p v s) := by
  cases t with
  | ppi sub => exact ppiWrite_pollQuiet sub v s
  | ide _ | fdc _ | led | traceLo | traceHi | unmapped => rfl

theorem portRead_pollQuiet (addr : PortAddr) (s : State) : PollQuiet s (portRead addr s) := by
  cases h : s.claimsAnswer addr with
  | true => rw [portRead_claimed addr s h]; rfl
  | false =>
    rw [portRead_unclaimed addr s h]
    exact .trans (t := claimCheck .read addr s) rfl (targetRead_pollQuiet _ _ _)

theorem portWrite_pollQuiet (addr : PortAddr) (v : Byte) (s : State) : PollQuiet s (portWrite addr v s) := by
  cases h : s.claimsAnswer addr with
  | true => rw [portWrite_claimed addr v s h]; rfl
  | false =>
    rw [portWrite_unclaimed addr v s h]
    exact .trans (t := claimCheck .write addr s) rfl (targetWrite_pollQuiet _ _ _ _)

theorem nonFetchObserve_pollQuiet (s : State) : PollQuiet s (nonFetchObserve s) := by
  rw [nonFetchObserve_eq_setDet]
  rfl

/-- The detector's step on the byte fetched, made at a state `u` that the operation reached without a poll. -/
theorem fetchObserve_pollQuiet {i : Instr} {b : Byte} {s u : State} (hi : fetchedByte i s = some b)
    (hdet : u.det = s.det) (hu : PollQuiet s u) : PollQuiet s (fetchObserve b u) ∨ MayPoll i s := by
  by_cases h : u.det = .sawPrefixED ∧ b = 0x4D
  · obtain ⟨hsaw, rfl⟩ := h
    exact .inr (.inl (firesReti_of_fetch hi (hdet ▸ hsaw)))
  · rw [fetchObserve_of_no_return h]
    exact .inl hu

theorem cpuMemRead_pollQuiet (va : VirtAddr) (m1 : Bool) (s : State) :
    PollQuiet s (cpuMemRead va m1 s) ∨ MayPoll (.cpuMemRead va m1) s := by
  have hread := virtRead_pollQuiet va false s
  cases m1 with
  | false => exact .inl (hread.trans (nonFetchObserve_pollQuiet _))
  | true => exact fetchObserve_pollQuiet rfl (virtRead_irqQuiet va false s).det hread

/-- Of the service's three lines one polls, and then no interrupt was live (R241). -/
theorem recalcService_pollQuiet (iff1 iff2 : Bool) (s : State) :
    PollQuiet s (recalcService iff1 iff2 s) ∨ MayPoll (.recalcSvc iff1 iff2) s := by
  obtain ⟨-, h⟩ | ⟨-, -, h⟩ | ⟨-, hl, -⟩ := recalcService_cases iff1 iff2 s
  · rw [h]; exact .inl rfl
  · rw [h]; exact .inl rfl
  · exact .inr (.inr (.inr ⟨⟨iff1, iff2, rfl⟩, hl⟩))

/-! ### Every operation -/

/-- The inversion of `exec` for the polls. The last arm holds the plain updates, RESET among them, and the single calls
to other collaborators. -/
theorem exec_pollQuiet {i : Instr} {s t : State} (h : exec i s = .next t) : PollQuiet s t ∨ MayPoll i s := by
  cases i with
  | retiEvent => exact .inr (.inl (.inl rfl))
  | repoll => exact .inr (.inr (.inl rfl))
  | recalcSvc iff1 iff2 => cases h; exact recalcService_pollQuiet iff1 iff2 s
  | pfxDd | pfxFd | pfxCb | pfxEd | opcReti | otherIdle b | otherSawed b | fetchObserve b =>
    cases h; exact fetchObserve_pollQuiet (u := s) rfl rfl rfl
  | cpuMemRead va m1 => cases h; exact cpuMemRead_pollQuiet va m1 s
  | nonfetch => cases h; exact .inl (nonFetchObserve_pollQuiet s).noRet
  | virtRead va quiet => cases h; exact .inl (virtRead_pollQuiet va quiet s)
  | virtWrite va v | cpuMemWrite va v => cases h; exact .inl (virtWrite_pollQuiet va v s).noRet
  | memwBase off v => cases h; exact .inl (PollQuiet.of_memoryWrite (baseWrite_eq _ v s)).noRet
  | memwExt off v => cases h; exact .inl (PollQuiet.of_memoryWrite (extWrite_eq _ v s)).noRet
  | physWrite a v => cases h; exact .inl (PollQuiet.of_memoryWrite (physWrite_eq a v s)).noRet
  | outPpiA x v => cases h; exact .inl (ppiWrite_pollQuiet 0 v s).noRet
  | outPpiB x v => cases h; exact .inl (ppiWrite_pollQuiet 1 v s).noRet
  | outPpiC x v => cases h; exact .inl (ppiWrite_pollQuiet 2 v s).noRet
  | outPpiCtrl x v => cases h; exact .inl (ppiWrite_pollQuiet 3 v s).noRet
  | modeset v => cases h; exact .inl (csRecalc_pollQuiet (modeSet v s)).noRet
  | bsr ign n b => cases h; exact .inl (csRecalc_pollQuiet (bitSetReset _ s)).noRet
  | csRecalc => cases h; exact .inl (csRecalc_pollQuiet s).noRet
  | portRead addr => cases h; exact .inl (portRead_pollQuiet addr s)
  | portWrite addr v => cases h; exact .inl (portWrite_pollQuiet addr v s).noRet
  | spiExchange b => cases h; exact .inl (spiExchange_pollQuiet b s)
  | _ => cases h; exact .inl rfl

/-! ## The obligations -/

/-- Settles O4: what the encoder writes decodes, so no request is refused; and an unmarked one that is no service, or is
one at a boundary, is in turn. -/
theorem aWellFormedRequestStepsOn : Obligations.AWellFormedRequestStepsOn := by
  refine ⟨fun s h => safeStep_of_decodes fun q hq => ?_, fun s i ends rest hwf hp hservice =>
    stepPerformsTheOldestRequest s [] _ rest i hp nofun (decode_encode hwf) (inTurn_unmarked hservice)⟩
  obtain ⟨i, hwf, hreq⟩ := h q hq
  exact ⟨i, hreq ▸ decode_encode hwf⟩

/-- Settles O38: what can poll while an interrupt is live is the RETI event or the re-poll. -/
theorem noPollWhileAnInterruptIsLive : Obligations.NoPollWhileAnInterruptIsLive :=
  fun _ _ _ h hl hfires hrepoll =>
    (exec_pollQuiet h).resolve_right fun hpoll => ((mayPoll_of_live hl).1 hpoll).elim hfires hrepoll

/-- Settles O3: no arm of `exec` answers anything else. -/
theorem everyOperationCompletes : Obligations.EveryOperationCompletes := exec_completes

end Sys2Proof.Machine

/-! PROOFS. Reset and hazards (70_reset_and_hazards.md): what RESET's two loading loops leave in an array, said once for
both, and that the mark of an operation performed is set by every step that performs one. -/

namespace Sys2Proof.Machine

/-! ## The loading loops (R300) -/

/-- A loop over an image that stores the bytes listed for one array, `byteAt i v` the byte `v` at index `i`, and passes over
every other. -/
structure LoadsArray {n : Nat} (load : List ImageByte → Memory → Memory) (byteAt : BitVec n → Byte → ImageByte) : Prop where
  nil : ∀ m, load [] m = m
  listed : ∀ i v xs m, load (byteAt i v :: xs) m = load xs (Memory.put m i.toNat v)
  passedOver : ∀ x xs m, (∀ i v, x ≠ byteAt i v) → load (x :: xs) m = load xs m

theorem loadRom_loadsArray : LoadsArray loadRom ImageByte.rom where
  nil _ := rfl
  listed _ _ _ _ := rfl
  passedOver
    | .rom i v, _, _, h => absurd rfl (h i v)
    | .ram _ _, _, _, _ => rfl

theorem loadRam_loadsArray : LoadsArray loadRam ImageByte.ram where
  nil _ := rfl
  listed _ _ _ _ := rfl
  passedOver
    | .rom _ _, _, _, _ => rfl
    | .ram i v, _, _, h => absurd rfl (h i v)

section Loading

variable {n : Nat} {load : List ImageByte → Memory → Memory} {byteAt : BitVec n → Byte → ImageByte}

/-- An index not listed keeps what the array held before. -/
theorem LoadsArray.get?_of_unlisted (hload : LoadsArray load byteAt) {xs : List ImageByte} {a : Nat}
    (h : ∀ i v, byteAt i v ∈ xs → i.toNat ≠ a) (m : Memory) : Memory.get? (load xs m) a = Memory.get? m a := by
  induction xs generalizing m with
  | nil => rw [hload.nil]
  | cons x xs ih =>
    have hrest : ∀ i v, byteAt i v ∈ xs → i.toNat ≠ a := fun i v hx => h i v (List.mem_cons_of_mem _ hx)
    by_cases hx : ∃ i v, x = byteAt i v
    · obtain ⟨i, v, rfl⟩ := hx
      rw [hload.listed, ih hrest, get?_put, if_neg (h i v List.mem_cons_self).symm]
    · rw [hload.passedOver x xs m fun i v hxi => hx ⟨i, v, hxi⟩, ih hrest]

/-- Of the bytes listed for one index the last stays. -/
theorem LoadsArray.get?_of_last (hload : LoadsArray load byteAt) {i : BitVec n} {later : List ImageByte}
    (h : ∀ w, byteAt i w ∉ later) (v : Byte) (earlier : List ImageByte) (m : Memory) :
    Memory.get? (load (earlier ++ byteAt i v :: later) m) i.toNat = some v := by
  induction earlier generalizing m with
  | nil =>
    have hlater : ∀ j w, byteAt j w ∈ later → j.toNat ≠ i.toNat :=
      fun j w hj heq => h w (BitVec.eq_of_toNat_eq heq ▸ hj)
    rw [List.nil_append, hload.listed, hload.get?_of_unlisted hlater, get?_put, if_pos rfl]
  | cons x xs ih =>
    rw [List.cons_append]
    by_cases hx : ∃ j w, x = byteAt j w
    · obtain ⟨j, w, rfl⟩ := hx
      rw [hload.listed, ih]
    · rw [hload.passedOver x _ m fun j w hxj => hx ⟨j, w, hxj⟩, ih]

end Loading

/-! ## What RESET leaves in the arrays -/

theorem resetWith_romAt (p : ResetParams) (s : State) (x : Nat) :
    (resetWith p s).romAt x = (Memory.get? (loadRom p.image []) x).getD (Config.romImage x) := rfl

theorem resetWith_ramAt (p : ResetParams) (s : State) (x : Nat) :
    (resetWith p s).ramAt x = (Memory.get? (loadRam p.image []) x).getD (Config.ramInit x) := rfl

/-! ## The mark -/

/-- After the start the decoder finds no operation in a RESET request, whatever its bytes (R302; log entry 14). -/
theorem decode_reset_of_started {c : DecodeCtx} (hc : c.started = true) (bytes : List Byte) :
    ∃ e, decode c ⟨.event .reset, bytes⟩ = .error e := by
  cases hd : decode c ⟨.event .reset, bytes⟩ with
  | error e => exact ⟨e, rfl⟩
  | ok i =>
    obtain ⟨p, hfresh, -, -⟩ := decodeReset_eq_ok_iff.1 hd
    simp [hc] at hfresh

/-- A step either idles, with every request waiting, or sets the mark. -/
theorem step_idles_or_starts {s t : State} (h : step s = .next t) :
    ((∀ q ∈ s.pending, s.waits q = true) ∧ t = s) ∨ t.started = true := by
  obtain hidle | ⟨-, -, -, -, u, -, -, -, -, -, rfl⟩ := step_next s t h
  · exact .inl hidle
  · exact .inr rfl

/-! ## The obligations -/

/-- Settles O13: the registers are the parameters by definition; each array is what its loading loop leaves of the empty
one, where the last byte listed stays and an index not listed has no stored byte. -/
theorem resetLoadsItsParameters : Obligations.ResetLoadsItsParameters := by
  intro p s
  refine ⟨(resetWith p s).noRet, rfl, rfl, fun i v xs ys hp hlast => ?_, fun i v xs ys hp hlast => ?_,
    fun x hx => ?_, fun x hx => ?_⟩
  · rw [romAt_congr _ _ (noRet_rom _), resetWith_romAt, hp, loadRom_loadsArray.get?_of_last hlast]
    rfl
  · rw [ramAt_congr _ _ (noRet_ram _), resetWith_ramAt, hp, loadRam_loadsArray.get?_of_last hlast]
    rfl
  · rw [romAt_congr _ _ (noRet_rom _), resetWith_romAt, loadRom_loadsArray.get?_of_unlisted hx]
    rfl
  · rw [ramAt_congr _ _ (noRet_ram _), resetWith_ramAt, loadRam_loadsArray.get?_of_unlisted hx]
    rfl

/-- Settles O14: a rejected RESET stops the machine before anything behind it runs, and a step that does not idle sets the
mark. -/
theorem resetIsRefusedOnceStarted : Obligations.ResetIsRefusedOnceStarted := by
  refine ⟨fun s bytes ends dma rest hs hp => ?_, fun s t h hsome => ?_, fun s t h hs => ?_⟩
  · obtain ⟨e, hd⟩ := decode_reset_of_started (c := s.ctx) hs bytes
    exact ⟨e, step_of_rejected (waiting := []) hp nofun hd⟩
  · obtain ⟨hall, -⟩ | hstarted := step_idles_or_starts h
    · obtain ⟨q, hq, hturn⟩ := hsome
      simp [hall q hq] at hturn
    · exact hstarted
  · obtain ⟨-, rfl⟩ | hstarted := step_idles_or_starts h
    · exact hs
    · exact hstarted

end Sys2Proof.Machine
